-- ==== Sys2Proof/Word.lean ====
section
/-! DEFINITION. The word types of the Hashchat CORE engine (spec/00_scope.md R10, R11, R13). -/

namespace Sys2Proof

/-- A byte, an integer 0 to 255 (R10); the element of the byte buffers (10_state.md R35). -/
abbrev Byte := BitVec 8

/-- A 32-bit register value (10_state.md R26) and a command word (30_encoding.md R90). -/
abbrev Word := BitVec 32

/-- A character cell, one character of text (R13); the element of the cell buffers (10_state.md R36). -/
abbrev Cell := BitVec 32

/-- A 64-bit quantity held in a register pair (PV, RV, IVCTR) or presented at TIME_MS. -/
abbrev DWord := BitVec 64

end Sys2Proof
end

