-- ==== Sys2Proof/Config.lean ====
section
/-! DEFINITION. The configuration of the machine: the sizes and the open parameters of spec/00_scope.md R7 to R9
and the free values of spec/93_implementation_defined.md part 1. -/

namespace Sys2Proof

/-- The IV mixing function of 41_derivation.md R147 is an open parameter: a model may assume of it only
IVMIX_LEN, IVMIX_PURE and IVMIX_INJ. DESIGN CHOICE, unsafe only for claims about runs from reset (log entry 1): it is
either the reference instance of R148 or an arbitrary function with those three properties. -/
inductive IvMix
  /-- `IVMIX_REF` of 41_derivation.md R148. -/
  | reference
  /-- Any function with the three properties of R147: `Config.anyIvMix8`, `Config.anyIvMix16`. -/
  | arbitrary
  deriving DecidableEq, Repr

/-- The parameters of 00_scope.md R8 and R9 that are open, each a named argument of the model. They are the
machine's configuration: no command and no transaction changes them (10_state.md R40). -/
structure Config where
  /-- BUF_CAP, the capacity of DIN, DOUT (bytes) and TIN, TOUT (cells) (00_scope.md R8). -/
  bufCap : Nat
  /-- TKEY_CAP, the capacity of TKEY in cells (00_scope.md R8). -/
  tkeyCap : Nat
  /-- FILL_T, the transposition filler cell (44_classical_1.md R243). -/
  fillT : Cell
  /-- FILL_H, the pair filler letter's index (45_classical_2.md R276). -/
  fillH : Fin 26
  /-- PICTO, the 26 pictographic symbols (45_classical_2.md R270). -/
  picto : List Cell
  /-- IVMIX, the IV mixing function (41_derivation.md R147). -/
  ivmix : IvMix
  deriving DecidableEq, Repr

/-- KEY_CAP = 32 bytes (00_scope.md R8). -/
def Config.keyCap : Nat := 32

/-- IV_CAP = 32 bytes (00_scope.md R8). -/
def Config.ivCap : Nat := 32

/-- PTAB_CAP = 64 entries (00_scope.md R8). -/
def Config.ptabCap : Nat := 64

/-- The default and reference values of 93_implementation_defined.md part 1.1: BUF_CAP 131072, TKEY_CAP 256, FILL_T
0x5F, FILL_H 23, PICTO[k] = 0x24B6 + k, IVMIX the reference instance. DESIGN CHOICE (log entries 1 and 3). -/
def Config.default : Config where
  bufCap := 131072
  tkeyCap := 256
  fillT := 0x5F#32
  fillH := 23
  picto := (List.range 26).map fun k => BitVec.ofNat 32 (0x24B6 + k)
  ivmix := .reference

/-- The arbitrary IVMIX for n = 8 (41_derivation.md R147): for each time a permutation of 64-bit values, whose value
at the counter gives the eight bytes. An injective map from 64-bit counters to 8 bytes is exactly such a
permutation, so the three properties hold by construction and nothing else is known of it (log entry 1). -/
opaque Config.anyIvMix8 : DWord → Equiv.Perm (BitVec 64)

/-- The arbitrary IVMIX for n = 16 (41_derivation.md R147): for each time a permutation of 128-bit values, applied to
the zero-extended counter. Every injective map from 64-bit counters to 16 bytes has this form (log entry 1). -/
opaque Config.anyIvMix16 : DWord → Equiv.Perm (BitVec 128)

/-- The free value of the k-th sample of TIME_MS while the platform states none: "draw(64) at each GEN_IV, under no
law at all" (10_state.md R39; log entry 2). -/
opaque Config.freeTimeMs : Nat → DWord

end Sys2Proof
end

