-- ==== Sys2Proof/Syntax.lean ====
section
/-! DEFINITION. The commands of the engine, one constructor per row of spec/opcode_table.json (spec/30_encoding.md
R93), and the transactions of the host and the platform (spec/20_memory.md R62 to R65, spec/70_reset_and_hazards.md
R380, spec/10_state.md R39). -/

namespace Sys2Proof

/-- The forty commands of 30_encoding.md R93. A command word carries no operand (R92). Only the three FX commands
keep a bit of their word, DIR, which R91 accepts "with either value" and which no meaning reads (log entry 10). -/
inductive Instr
  /-- GF(2^8) multiply (40_utilities.md R123). -/
  | gfmul
  /-- Arbitrary bit permutation (40_utilities.md R126). -/
  | bitperm
  /-- 16-byte key derivation (41_derivation.md R141). -/
  | deriveKeyA
  /-- 8-byte key derivation (41_derivation.md R142). -/
  | deriveKeyB
  /-- 16-byte IV generation (41_derivation.md R149). -/
  | genIvA
  /-- 8-byte IV generation (41_derivation.md R150). -/
  | genIvB
  /-- Cipher A key expansion (42_cipher_a_spn.md R175). -/
  | aKeyexp
  /-- Cipher A single block (42_cipher_a_spn.md R176). -/
  | aBlock
  /-- Cipher A counter mode, format FX (42_cipher_a_spn.md R177). -/
  | aCtr (dir : BitVec 1)
  /-- Cipher B key schedule (43_cipher_b_feistel.md R212). -/
  | bKeysched
  /-- Cipher B single block, encrypt (43_cipher_b_feistel.md R213). -/
  | bBlockE
  /-- Cipher B single block, decrypt (43_cipher_b_feistel.md R214). -/
  | bBlockD
  /-- Cipher B chained mode, encrypt (43_cipher_b_feistel.md R215). -/
  | bCbcE
  /-- Cipher B chained mode, decrypt (43_cipher_b_feistel.md R216). -/
  | bCbcD
  /-- Shift, encrypt (44_classical_1.md R233). -/
  | shiftE
  /-- Shift, decrypt (44_classical_1.md R234). -/
  | shiftD
  /-- Polyalphabetic, encrypt (44_classical_1.md R238). -/
  | polyE
  /-- Polyalphabetic, decrypt (44_classical_1.md R239). -/
  | polyD
  /-- Fixed-13 shift, format FX (44_classical_1.md R242). -/
  | rot13 (dir : BitVec 1)
  /-- Columnar transposition, encrypt (44_classical_1.md R247). -/
  | transpE
  /-- Columnar transposition, decrypt (44_classical_1.md R248). -/
  | transpD
  /-- Fractionation, encrypt (44_classical_1.md R253). -/
  | fractE
  /-- Fractionation, decrypt (44_classical_1.md R254). -/
  | fractD
  /-- Pictographic substitution, encrypt (45_classical_2.md R272). -/
  | pictoE
  /-- Pictographic substitution, decrypt (45_classical_2.md R273). -/
  | pictoD
  /-- Linear substitution 2×2, encrypt (45_classical_2.md R279). -/
  | hillE
  /-- Linear substitution 2×2, decrypt (45_classical_2.md R280). -/
  | hillD
  /-- Zig-zag, encrypt (45_classical_2.md R285). -/
  | railE
  /-- Zig-zag, decrypt (45_classical_2.md R286). -/
  | railD
  /-- Modular-multiplicative, encrypt (45_classical_2.md R292). -/
  | multE
  /-- Modular-multiplicative, decrypt (45_classical_2.md R293). -/
  | multD
  /-- Pass-through, format FX (45_classical_2.md R296). -/
  | pass (dir : BitVec 1)
  /-- Pack a 16-byte IV and the ciphertext (46_envelope.md R312). -/
  | envPackA
  /-- Pack an 8-byte IV and the ciphertext (46_envelope.md R313). -/
  | envPackB
  /-- Split off a 16-byte IV (46_envelope.md R314). -/
  | envUnpackA
  /-- Split off an 8-byte IV (46_envelope.md R315). -/
  | envUnpackB
  /-- Base64, encode (46_envelope.md R322). -/
  | b64E
  /-- Base64, decode (46_envelope.md R323). -/
  | b64D
  /-- Copy DOUT to DIN (46_envelope.md R334). -/
  | movb
  /-- Copy TOUT to TIN (46_envelope.md R335). -/
  | movt
  deriving DecidableEq, Repr

/-- The five byte buffers (10_state.md R35). -/
inductive ByteBuf
  | key | iv | din | dout | ptab
  deriving DecidableEq, Repr

/-- The three character-cell buffers (10_state.md R36). -/
inductive CellBuf
  | tkey | tin | tout
  deriving DecidableEq, Repr

/-- The byte buffers the host may load (20_memory.md R64: "DOUT and TOUT cannot be loaded by the host"). -/
inductive LoadByteBuf
  | key | iv | din | ptab
  deriving DecidableEq, Repr

/-- The cell buffers the host may load (20_memory.md R64). -/
inductive LoadCellBuf
  | tkey | tin
  deriving DecidableEq, Repr

/-- What acts on the engine, one entry per indivisible transaction (20_memory.md R62): the host's five transactions
(the command write is `writeReg 0 w`, R70) and the platform's two inputs. -/
inductive Transaction
  /-- `WriteReg(n, v)` (20_memory.md R63); for n = 0 the command v executes (R70). -/
  | writeReg (n : Nat) (v : Word)
  /-- `ReadReg(n)` (20_memory.md R63). -/
  | readReg (n : Nat)
  /-- `LoadBuf(S, v)` of a byte buffer (20_memory.md R64). -/
  | loadBytes (b : LoadByteBuf) (v : List Byte)
  /-- `LoadBuf(S, v)` of a cell buffer (20_memory.md R64). -/
  | loadCells (b : LoadCellBuf) (v : List Cell)
  /-- `ReadBuf(S)` of a byte buffer (20_memory.md R65). -/
  | readBytes (b : ByteBuf)
  /-- `ReadBuf(S)` of a cell buffer (20_memory.md R65). -/
  | readCells (b : CellBuf)
  /-- The platform asserts Reset (70_reset_and_hazards.md R380). -/
  | reset
  /-- The platform presents t at TIME_MS from here on (10_state.md R39; 30_encoding.md R97 writes it `TIME t`). -/
  | time (t : DWord)
  /-- The platform states no value at TIME_MS from here on: each sample is a free value (10_state.md R39). -/
  | timeFree
  deriving DecidableEq, Repr

end Sys2Proof
end

