-- ==== Sys2Proof/WellFormed.lean ====
section
/-! DEFINITION. Which terms are well formed: every command is (spec/30_encoding.md R92), a load is when it fits its
buffer (spec/20_memory.md R64), a configuration is when it meets the constraints of
spec/93_implementation_defined.md part 1.1. -/

namespace Sys2Proof

/-- Every command is well formed: a command word carries no operand (30_encoding.md R92), and DIR of an FX command
may have either value (R91). -/
def Instr.wellFormed (_i : Instr) : Bool := true

/-- The capacity of a byte buffer (00_scope.md R8, 10_state.md R35). -/
def Config.byteCap (c : Config) : ByteBuf → Nat
  | .key => Config.keyCap
  | .iv => Config.ivCap
  | .din => c.bufCap
  | .dout => c.bufCap
  | .ptab => Config.ptabCap

/-- The capacity of a cell buffer (00_scope.md R8, 10_state.md R36). -/
def Config.cellCap (c : Config) : CellBuf → Nat
  | .tkey => c.tkeyCap
  | .tin => c.bufCap
  | .tout => c.bufCap

/-- The buffer a host load of bytes replaces. -/
def LoadByteBuf.buf : LoadByteBuf → ByteBuf
  | .key => .key
  | .iv => .iv
  | .din => .din
  | .ptab => .ptab

/-- The buffer a host load of cells replaces. -/
def LoadCellBuf.buf : LoadCellBuf → CellBuf
  | .tkey => .tkey
  | .tin => .tin

/-- A transaction is well formed for a configuration when a load fits its buffer (20_memory.md R64). -/
def Transaction.wellFormed (c : Config) : Transaction → Bool
  | .loadBytes b v => decide (v.length ≤ c.byteCap b.buf)
  | .loadCells b v => decide (v.length ≤ c.cellCap b.buf)
  | .writeReg _ _ => true
  | .readReg _ => true
  | .readBytes _ => true
  | .readCells _ => true
  | .reset => true
  | .time _ => true
  | .timeFree => true

/-- A cell value that is an ASCII letter (00_scope.md R13), in numbers. -/
def cellIsLetter (c : Cell) : Bool :=
  (decide (0x41 ≤ c.toNat) && decide (c.toNat ≤ 0x5A)) || (decide (0x61 ≤ c.toNat) && decide (c.toNat ≤ 0x7A))

/-- FILL_T is "not an ASCII letter, not the space" (93_implementation_defined.md 1.1, 44_classical_1.md R243). -/
def Config.fillTWellFormed (c : Config) : Bool := !cellIsLetter c.fillT && c.fillT != 0x20#32

/-- PICTO is "26 pairwise distinct cell values, none in 'A'..'Z'" (45_classical_2.md R270). -/
def Config.pictoWellFormed (c : Config) : Bool :=
  decide (c.picto.length = 26) && decide c.picto.Nodup &&
    c.picto.all fun x => !(decide (0x41 ≤ x.toNat) && decide (x.toNat ≤ 0x5A))

/-- The capacities are at least the bounds of 00_scope.md R8, and a length fits a 32-bit length register (10_state.md
R26; DEDUCED, log entry 3). -/
def Config.capsWellFormed (c : Config) : Bool :=
  decide (69356 ≤ c.bufCap) && decide (c.bufCap < 2 ^ 32) && decide (10 ≤ c.tkeyCap) && decide (c.tkeyCap < 2 ^ 32)

/-- The constraints a model may assume of the parameters (93_implementation_defined.md part 1.1). -/
def Config.wellFormed (c : Config) : Bool := c.capsWellFormed && c.fillTWellFormed && c.pictoWellFormed

end Sys2Proof
end

