-- ==== Sys2Proof/Decode.lean ====
section
/-! DEFINITION. Decoding a command word (spec/30_encoding.md R90 to R95), and the encoder from the same table. -/

namespace Sys2Proof

/-- Why a word is illegal (30_encoding.md R95). The engine answers every one of them with ERR_ILLEGAL. -/
inductive DecodeError
  /-- A nonzero bit in 31:10. -/
  | zeroFieldNotZero
  /-- An OPC value outside the twenty-five. -/
  | unknownOpcode
  /-- DIR = 1 on an F0 or FS opcode. -/
  | dirNotZero
  /-- SEL = 1 on an F0, FD or FX opcode. -/
  | selNotZero
  deriving DecidableEq, Repr

/-- OPC, bits 7:0 (30_encoding.md R90). -/
def opcField (w : Word) : Nat := (w.extractLsb' 0 8).toNat

/-- DIR, bit 8 (30_encoding.md R90). -/
def dirField (w : Word) : BitVec 1 := w.extractLsb' 8 1

/-- SEL, bit 9 (30_encoding.md R90). -/
def selField (w : Word) : BitVec 1 := w.extractLsb' 9 1

/-- ZERO, bits 31:10 (30_encoding.md R90). -/
def zeroField (w : Word) : BitVec 22 := w.extractLsb' 10 22

/-- Format F0: DIR and SEL must both be 0 (30_encoding.md R91). -/
def decodeF0 (w : Word) (i : Instr) : Except DecodeError Instr :=
  if dirField w ≠ 0 then .error .dirNotZero
  else if selField w ≠ 0 then .error .selNotZero
  else .ok i

/-- Format FD: SEL must be 0; DIR picks the encrypt or the decrypt form (30_encoding.md R91). -/
def decodeFD (w : Word) (e d : Instr) : Except DecodeError Instr :=
  if selField w ≠ 0 then .error .selNotZero
  else if dirField w = 0 then .ok e else .ok d

/-- Format FS: DIR must be 0; SEL picks the .A or the .B form (30_encoding.md R91). -/
def decodeFS (w : Word) (a b : Instr) : Except DecodeError Instr :=
  if dirField w ≠ 0 then .error .dirNotZero
  else if selField w = 0 then .ok a else .ok b

/-- Format FX: SEL must be 0; DIR is accepted with either value (30_encoding.md R91). -/
def decodeFX (w : Word) (i : BitVec 1 → Instr) : Except DecodeError Instr :=
  if selField w ≠ 0 then .error .selNotZero
  else .ok (i (dirField w))

/-- The twenty-five opcodes and their formats (30_encoding.md R93, R94). -/
def decodeOpc (w : Word) : Nat → Except DecodeError Instr
  | 0x01 => decodeF0 w .gfmul
  | 0x02 => decodeF0 w .bitperm
  | 0x08 => decodeFS w .deriveKeyA .deriveKeyB
  | 0x09 => decodeFS w .genIvA .genIvB
  | 0x10 => decodeF0 w .aKeyexp
  | 0x11 => decodeF0 w .aBlock
  | 0x12 => decodeFX w .aCtr
  | 0x18 => decodeF0 w .bKeysched
  | 0x19 => decodeFD w .bBlockE .bBlockD
  | 0x1A => decodeFD w .bCbcE .bCbcD
  | 0x20 => decodeFD w .shiftE .shiftD
  | 0x21 => decodeFD w .polyE .polyD
  | 0x22 => decodeFX w .rot13
  | 0x23 => decodeFD w .transpE .transpD
  | 0x24 => decodeFD w .fractE .fractD
  | 0x25 => decodeFD w .pictoE .pictoD
  | 0x26 => decodeFD w .hillE .hillD
  | 0x27 => decodeFD w .railE .railD
  | 0x28 => decodeFD w .multE .multD
  | 0x29 => decodeFX w .pass
  | 0x30 => decodeFS w .envPackA .envPackB
  | 0x31 => decodeFS w .envUnpackA .envUnpackB
  | 0x32 => decodeFD w .b64E .b64D
  | 0x38 => decodeF0 w .movb
  | 0x39 => decodeF0 w .movt
  | _ => .error .unknownOpcode

/-- `decode(w)`: the row of R93 whose format admits w, or the reason it is illegal (30_encoding.md R94). -/
def decode (w : Word) : Except DecodeError Instr :=
  if zeroField w ≠ 0 then .error .zeroFieldNotZero else decodeOpc w (opcField w)

/-- The instruction the decoder reads from a table word: every command is one 32-bit word (30_encoding.md R90), and
every bit above `nbits` is 0. -/
def decodeTableWord (nbits w : Nat) : Option Instr :=
  match decode (BitVec.ofNat 32 (w % 2 ^ nbits)) with
  | .ok i => some i
  | .error _ => none

/-- The word with fields OPC, DIR, SEL and ZERO = 0 (30_encoding.md R90). -/
def encodeFields (opc : BitVec 8) (dir sel : BitVec 1) : Word := 0#22 ++ sel ++ dir ++ opc

/-- The word written to CMD for a command: the columns OPC, DIR and SEL of 30_encoding.md R93. -/
def encode : Instr → Word
  | .gfmul => encodeFields 0x01 0 0
  | .bitperm => encodeFields 0x02 0 0
  | .deriveKeyA => encodeFields 0x08 0 0
  | .deriveKeyB => encodeFields 0x08 0 1
  | .genIvA => encodeFields 0x09 0 0
  | .genIvB => encodeFields 0x09 0 1
  | .aKeyexp => encodeFields 0x10 0 0
  | .aBlock => encodeFields 0x11 0 0
  | .aCtr dir => encodeFields 0x12 dir 0
  | .bKeysched => encodeFields 0x18 0 0
  | .bBlockE => encodeFields 0x19 0 0
  | .bBlockD => encodeFields 0x19 1 0
  | .bCbcE => encodeFields 0x1A 0 0
  | .bCbcD => encodeFields 0x1A 1 0
  | .shiftE => encodeFields 0x20 0 0
  | .shiftD => encodeFields 0x20 1 0
  | .polyE => encodeFields 0x21 0 0
  | .polyD => encodeFields 0x21 1 0
  | .rot13 dir => encodeFields 0x22 dir 0
  | .transpE => encodeFields 0x23 0 0
  | .transpD => encodeFields 0x23 1 0
  | .fractE => encodeFields 0x24 0 0
  | .fractD => encodeFields 0x24 1 0
  | .pictoE => encodeFields 0x25 0 0
  | .pictoD => encodeFields 0x25 1 0
  | .hillE => encodeFields 0x26 0 0
  | .hillD => encodeFields 0x26 1 0
  | .railE => encodeFields 0x27 0 0
  | .railD => encodeFields 0x27 1 0
  | .multE => encodeFields 0x28 0 0
  | .multD => encodeFields 0x28 1 0
  | .pass dir => encodeFields 0x29 dir 0
  | .envPackA => encodeFields 0x30 0 0
  | .envPackB => encodeFields 0x30 0 1
  | .envUnpackA => encodeFields 0x31 0 0
  | .envUnpackB => encodeFields 0x31 0 1
  | .b64E => encodeFields 0x32 0 0
  | .b64D => encodeFields 0x32 1 0
  | .movb => encodeFields 0x38 0 0
  | .movt => encodeFields 0x39 0 0

/-- The mask of a row: F0, FD and FS rows fix all 32 bits, FX rows leave DIR free (30_encoding.md R94). -/
def rowMask : Instr → Word
  | .aCtr _ => 0xFFFFFEFF#32
  | .rot13 _ => 0xFFFFFEFF#32
  | .pass _ => 0xFFFFFEFF#32
  | _ => 0xFFFFFFFF#32

/-- The match value of a row: its word with DIR = 0 where DIR is free (30_encoding.md R93, R94). -/
def rowMatch (i : Instr) : Word := encode i &&& rowMask i

end Sys2Proof
end

