-- ==== Sys2Proof/Machine/State.lean ====
section
/-! DEFINITION. The state of the engine (spec/10_state.md), its reset value (spec/70_reset_and_hazards.md R381) and
the ways a step of the model can stop. -/

namespace Sys2Proof.Machine

/-- The eight buffer spaces (20_memory.md R60). "A buffer's content is exactly its elements 0 to length−1" (10_state.md
R37), so a buffer is the list of its elements, and its length register (10_state.md R32) is the list's length. -/
structure Memory where
  /-- KEY, bytes (10_state.md R35). -/
  key : List Byte
  /-- IV, bytes (10_state.md R35). -/
  iv : List Byte
  /-- DIN, bytes (10_state.md R35). -/
  din : List Byte
  /-- DOUT, bytes (10_state.md R35). -/
  dout : List Byte
  /-- PTAB, bytes, one table entry each (10_state.md R35). -/
  ptab : List Byte
  /-- TKEY, cells (10_state.md R36). -/
  tkey : List Cell
  /-- TIN, cells (10_state.md R36). -/
  tin : List Cell
  /-- TOUT, cells (10_state.md R36). -/
  tout : List Cell
  deriving DecidableEq, Repr

/-- What the platform presents at the input port TIME_MS (10_state.md R39): a stated value, or nothing stated, and
then every sample is a free value (log entry 2). -/
inductive TimePort
  /-- The port presents t until the platform changes it. -/
  | driven (t : DWord)
  /-- No value is stated: the k-th sample is `Config.freeTimeMs k`. -/
  | undriven
  deriving DecidableEq, Repr

/-- What a read transaction returned to the host (20_memory.md R63, R65; log entry 7). -/
inductive Reply
  /-- Nothing has been read. -/
  | none
  /-- The value a ReadReg returned. -/
  | word (v : Word)
  /-- The content a ReadBuf of a byte buffer returned. -/
  | bytes (v : List Byte)
  /-- The content a ReadBuf of a cell buffer returned. -/
  | cells (v : List Cell)
  deriving DecidableEq, Repr

/-- The machine: the engine's registers and buffers (10_state.md R20), and after them the model's own fields. -/
structure State where
  /-- STATUS, number 0x01 (10_state.md R28). -/
  status : Word
  /-- P0, number 0x02 (10_state.md R29). -/
  p0 : Word
  /-- P1, number 0x03 (10_state.md R29). -/
  p1 : Word
  /-- P2, number 0x04 (10_state.md R29). -/
  p2 : Word
  /-- P3, number 0x05 (10_state.md R29). -/
  p3 : Word
  /-- PV_HI, number 0x06 (10_state.md R30). -/
  pvHi : Word
  /-- PV_LO, number 0x07 (10_state.md R30). -/
  pvLo : Word
  /-- RV_HI, number 0x08 (10_state.md R31). -/
  rvHi : Word
  /-- RV_LO, number 0x09 (10_state.md R31). -/
  rvLo : Word
  /-- IVCTR_HI, number 0x12 (10_state.md R33). -/
  ivctrHi : Word
  /-- IVCTR_LO, number 0x13 (10_state.md R33). -/
  ivctrLo : Word
  /-- The eight buffers with their lengths, numbers 0x0A to 0x11 (10_state.md R32, R35, R36). -/
  mem : Memory
  /-- The model's own: the machine's configuration, which no step changes (10_state.md R40; log entry 3). -/
  cfg : Config
  /-- The model's own: what stands at the input port TIME_MS (10_state.md R39; log entry 2). -/
  timeMs : TimePort
  /-- The model's own: how many samples of TIME_MS have been taken (log entry 2). -/
  timeDraws : Nat
  /-- The model's own: the transactions still to be performed, oldest first (10_state.md R24; log entry 4). -/
  pending : List Transaction
  /-- The model's own: what the most recent read returned to the host (20_memory.md R63, R65; log entry 7). -/
  lastRead : Reply
  deriving DecidableEq, Repr

/-- Why the machine would stop with a fault. There is NO constructor: no failure stops the engine (60_exceptions.md
R340, R351); every failure is a STATUS code in a next state (R346). Safe: no run is cut short (log entry 11). -/
inductive Fault
  deriving DecidableEq, Repr

/-- Why a step has no meaning. -/
inductive Refusal
  /-- Raised by an arm of `exec` whose instruction has no meaning yet; no arm is left so. Safe. -/
  | notModelled (mnemonic : String)
  /-- Raised by a LoadBuf with more elements than the buffer's capacity: "the transaction is refused: it is not
  performed, no state changes" (20_memory.md R64; log entry 8). Safe. -/
  | loadTooLong
  deriving DecidableEq, Repr

/-- What a command, a transaction or a step answers. -/
abbrev Answer := Host.Outcome State Fault Refusal

/-- Every buffer empty (10_state.md R50). -/
def Memory.empty : Memory where
  key := []
  iv := []
  din := []
  dout := []
  ptab := []
  tkey := []
  tin := []
  tout := []

/-- The state after Reset (10_state.md R50, 70_reset_and_hazards.md R381): every register 0, every buffer empty. The
model's own fields are DESIGN CHOICE (log entries 2, 3, 4 and 7): the default configuration, no time stated, no
sample taken, nothing pending, nothing read. -/
def State.reset : State where
  status := 0
  p0 := 0
  p1 := 0
  p2 := 0
  p3 := 0
  pvHi := 0
  pvLo := 0
  rvHi := 0
  rvLo := 0
  ivctrHi := 0
  ivctrLo := 0
  mem := Memory.empty
  cfg := Config.default
  timeMs := .undriven
  timeDraws := 0
  pending := []
  lastRead := .none

end Sys2Proof.Machine
end

