-- ==== Sys2Proof/Machine/Flags.lean ====
section
/-! DEFINITION. The one flag of the engine, STATUS.CODE (spec/10_state.md R25, R28), and its codes
(spec/60_exceptions.md R341). -/

namespace Sys2Proof.Machine

/-- The codes of STATUS.CODE (60_exceptions.md R341). -/
inductive Code
  | ok | keylen | ivlen | b64 | envelope | ctlen | pad | noinverse | contract | cap | illegal
  deriving DecidableEq, Repr

/-- The number of a code (60_exceptions.md R341). -/
def Code.number : Code → Nat
  | .ok => 0
  | .keylen => 1
  | .ivlen => 2
  | .b64 => 3
  | .envelope => 4
  | .ctlen => 5
  | .pad => 6
  | .noinverse => 7
  | .contract => 8
  | .cap => 9
  | .illegal => 10

/-- STATUS as a word: CODE in bits 4:0, bits 31:5 zero (10_state.md R28). -/
def Code.word (c : Code) : Word := 0#27 ++ BitVec.ofNat 5 c.number

/-- `x[STATUS] <- code` (10_state.md R25: every command writes CODE and nothing else of STATUS is ever nonzero). -/
def State.setStatus (s : State) (c : Code) : State := { s with status := c.word }

/-- STATUS.CODE, bits 4:0 of STATUS (10_state.md R28). -/
def State.code (s : State) : BitVec 5 := s.status.extractLsb' 0 5

end Sys2Proof.Machine
end

