-- ==== Sys2Proof/Machine/Operands.lean ====
section
/-! DEFINITION. The operand forms: the readings of the parameter registers (spec/10_state.md R22, R23), the register
pairs (R30, R31, R33), the buffers (R35, R36), the sample of TIME_MS (R39) and the letters of a text
(spec/00_scope.md R13). -/

namespace Sys2Proof.Machine

/-- `x[Pi][7:0]`, bits 31:8 ignored: GFMUL's reading of P0 and P1 (10_state.md R22). -/
def lowByte (r : Word) : Byte := r.extractLsb' 0 8

/-- `sext_32(x[Pi])`: the register read as a two's complement integer (10_state.md R22, R23; 00_scope.md R11). -/
def sext32 (r : Word) : Int := r.toInt

/-- `a mod 26` with the floor modulus, in 0..25 for every integer a (00_scope.md R10; 10_state.md R23). -/
def floorMod26 (a : Int) : Nat := (a % 26).toNat

/-- An integer parameter reduced at once modulo 26 (44_classical_1.md R231, 45_classical_2.md R277, R291). -/
def param26 (r : Word) : Nat := floorMod26 (sext32 r)

/-- `PV = x[PV_HI] * 2^32 + x[PV_LO]` (10_state.md R30). -/
def State.pv (s : State) : DWord := s.pvHi ++ s.pvLo

/-- `RV = x[RV_HI] * 2^32 + x[RV_LO]` (10_state.md R31). -/
def State.rv (s : State) : DWord := s.rvHi ++ s.rvLo

/-- `IVCTR = x[IVCTR_HI] * 2^32 + x[IVCTR_LO]` (10_state.md R33). -/
def State.ivctr (s : State) : DWord := s.ivctrHi ++ s.ivctrLo

/-- The whole current content of a byte buffer, `BUF(S)` (00_scope.md R12). -/
def Memory.bytes (m : Memory) : ByteBuf → List Byte
  | .key => m.key
  | .iv => m.iv
  | .din => m.din
  | .dout => m.dout
  | .ptab => m.ptab

/-- The whole current content of a cell buffer, `BUF(S)` (00_scope.md R12). -/
def Memory.cells (m : Memory) : CellBuf → List Cell
  | .tkey => m.tkey
  | .tin => m.tin
  | .tout => m.tout

/-- Element `i` of a byte buffer; no element at or beyond the length is readable (10_state.md R37). -/
def Memory.byteAt (m : Memory) (b : ByteBuf) (i : Nat) : Option Byte := (m.bytes b)[i]?

/-- Element `i` of a cell buffer; no element at or beyond the length is readable (10_state.md R37). -/
def Memory.cellAt (m : Memory) (b : CellBuf) (i : Nat) : Option Cell := (m.cells b)[i]?

/-- The value one sample of TIME_MS gives: the stated value, or a fresh free value (10_state.md R39; log entry 2). -/
def State.sampleTime (s : State) : DWord :=
  match s.timeMs with
  | .driven t => t
  | .undriven => Config.freeTimeMs s.timeDraws

/-- The space character 0x20 (00_scope.md R13). -/
def spaceCell : Cell := 0x20

/-- `isup(c)`: an ASCII upper-case letter (00_scope.md R13). -/
def isup (c : Cell) : Bool := decide (0x41 ≤ c.toNat) && decide (c.toNat ≤ 0x5A)

/-- `islo(c)`: an ASCII lower-case letter (00_scope.md R13). -/
def islo (c : Cell) : Bool := decide (0x61 ≤ c.toNat) && decide (c.toNat ≤ 0x7A)

/-- `islet(c) = isup(c) or islo(c)`: one of the 52 ASCII letters and nothing else (00_scope.md R13). -/
def islet (c : Cell) : Bool := isup c || islo c

/-- `idx(c)`: c − 0x41 for an upper-case letter, c − 0x61 for a lower-case letter (00_scope.md R13). -/
def idx (c : Cell) : Nat := if isup c then c.toNat - 0x41 else c.toNat - 0x61

/-- `up(i) = 0x41 + i` (00_scope.md R13). -/
def upc (i : Nat) : Cell := BitVec.ofNat 32 (0x41 + i)

/-- `lo(i) = 0x61 + i` (00_scope.md R13). -/
def loc (i : Nat) : Cell := BitVec.ofNat 32 (0x61 + i)

end Sys2Proof.Machine
end

