-- ==== Sys2Proof/Machine/Ops.lean ====
section
/-! DEFINITION. The named operations over registers and buffers, and the one way a command fails
(spec/60_exceptions.md R346). -/

namespace Sys2Proof.Machine

/-- `BUF(S) <- v` on the byte buffers: content and length replaced together (00_scope.md R12). -/
def Memory.setBytes (m : Memory) (b : ByteBuf) (v : List Byte) : Memory :=
  match b with
  | .key => { m with key := v }
  | .iv => { m with iv := v }
  | .din => { m with din := v }
  | .dout => { m with dout := v }
  | .ptab => { m with ptab := v }

/-- `BUF(S) <- v` on the cell buffers: content and length replaced together (00_scope.md R12). -/
def Memory.setCells (m : Memory) (b : CellBuf) (v : List Cell) : Memory :=
  match b with
  | .tkey => { m with tkey := v }
  | .tin => { m with tin := v }
  | .tout => { m with tout := v }

/-- The form of the buffers: no length exceeds its buffer's capacity (10_state.md R32, R35, R36). A list of elements
is already canonical: equal contents are equal data (log entry 6). -/
def Memory.wf (c : Config) (m : Memory) : Bool :=
  decide (m.key.length ≤ c.byteCap .key) && decide (m.iv.length ≤ c.byteCap .iv) &&
    decide (m.din.length ≤ c.byteCap .din) && decide (m.dout.length ≤ c.byteCap .dout) &&
    decide (m.ptab.length ≤ c.byteCap .ptab) && decide (m.tkey.length ≤ c.cellCap .tkey) &&
    decide (m.tin.length ≤ c.cellCap .tin) && decide (m.tout.length ≤ c.cellCap .tout)

/-- `BUF(S) <- v` in the state, byte buffers (00_scope.md R12). -/
def State.putBytes (s : State) (b : ByteBuf) (v : List Byte) : State := { s with mem := s.mem.setBytes b v }

/-- `BUF(S) <- v` in the state, cell buffers (00_scope.md R12). -/
def State.putCells (s : State) (b : CellBuf) (v : List Cell) : State := { s with mem := s.mem.setCells b v }

/-- `RV <- v`: `x[RV_HI] <- v[63:32]; x[RV_LO] <- v[31:0]` (10_state.md R31). -/
def State.setRv (s : State) (v : DWord) : State :=
  { s with rvHi := v.extractLsb' 32 32, rvLo := v.extractLsb' 0 32 }

/-- `IVCTR <- v` (10_state.md R33). -/
def State.setIvctr (s : State) (v : DWord) : State :=
  { s with ivctrHi := v.extractLsb' 32 32, ivctrLo := v.extractLsb' 0 32 }

/-- One more sample of TIME_MS has been taken (log entry 2). -/
def State.countDraw (s : State) : State := { s with timeDraws := s.timeDraws + 1 }

/-- The destination a failing command empties (10_state.md R38, last column). -/
inductive Dest
  /-- RV, for BITPERM. -/
  | rv
  /-- DOUT, for the byte-lane commands. -/
  | dout
  /-- TOUT, for the text commands. -/
  | tout
  deriving DecidableEq, Repr

/-- The destination emptied: its length register 0, or RV 0 (60_exceptions.md R346). -/
def State.emptyDest (s : State) : Dest → State
  | .rv => s.setRv 0
  | .dout => s.putBytes .dout []
  | .tout => s.putCells .tout []

/-- A command that succeeds ends with `x[STATUS] <- OK` after writing its result (60_exceptions.md R350). -/
def succeed (s : State) : Answer := .next (s.setStatus .ok)

/-- `raise ERR_X`, the engine's one way of taking a failure (60_exceptions.md R346): STATUS gets the code, the
destination is emptied, nothing else changes, the command ends. There is no saved state, no mode, no vector and
nothing to return from (R346, R349). -/
def raise (d : Dest) (c : Code) (s : State) : Answer := .next ((s.emptyDest d).setStatus c)

/-- An illegal command word sets STATUS to ERR_ILLEGAL "and changes nothing else at all" (60_exceptions.md R347). -/
def raiseIllegal (s : State) : Answer := .next (s.setStatus .illegal)

/-- A command whose result may not exist: DOUT gets it, or the command fails with code c. -/
def finishBytes (c : Code) (r : Option (List Byte)) (s : State) : Answer :=
  match r with
  | some v => succeed (s.putBytes .dout v)
  | none => raise .dout c s

end Sys2Proof.Machine
end

