-- ==== Sys2Proof/Machine/Utilities.lean ====
section
/-! DEFINITION. Byte and bit utilities, GFMUL and BITPERM (spec/40_utilities.md). -/

namespace Sys2Proof.Machine

/-- `be(b)`: the bytes as one unsigned integer, first byte most significant (R120). -/
def be (b : List Byte) : Nat := b.foldl (fun v x => v * 256 + x.toNat) 0

/-- `unbe_n(v)`: the n bytes of v, most significant first (R120). -/
def unbe (n v : Nat) : List Byte := (List.range n).map fun i => BitVec.ofNat 8 (v >>> (8 * (n - 1 - i)))

/-- `xorb(a, b)` of two sequences of equal length (R121). -/
def xorb (a b : List Byte) : List Byte := List.zipWith (· ^^^ ·) a b

/-- The shift-and-add iterations of R122: k of them left, with the running a, b and p. -/
def gmulLoop : Nat → Byte → Byte → Byte → Byte
  | 0, _, _, p => p
  | k + 1, a, b, p =>
    gmulLoop k (if a.getLsbD 7 then (a <<< 1) ^^^ 0x1B else a <<< 1) (b >>> 1) (if b.getLsbD 0 then p ^^^ a else p)

/-- `gmul(a, b)`: multiplication of bytes modulo x^8 + x^4 + x^3 + x + 1, eight iterations (R122). -/
def gmul (a b : Byte) : Byte := gmulLoop 8 a b 0

/-- `permute(v, n_in, T)`: output position i takes input position T[i−1], positions counted from 1 at the most
significant end (R124). -/
def permute (v nIn : Nat) (t : List Nat) : Nat := t.foldl (fun out p => out * 2 + (v >>> (nIn - p)) % 2) 0

/-- `permute` between values of stated widths, the result read at width m = |T| (R124). -/
def permuteTo {n : Nat} (m : Nat) (v : BitVec n) (t : List Nat) : BitVec m := BitVec.ofNat m (permute v.toNat n t)

/-- `rotl28(v, s)`: rotation of a 28-bit value to the left (R125). -/
def rotl28 (v : BitVec 28) (s : Nat) : BitVec 28 := (v <<< s) ||| (v >>> (28 - s))

/-- GFMUL (R123): `RV <- zext_64(gmul(x[P0][7:0], x[P1][7:0]))`. -/
def execGfmul (s : State) : Answer := succeed (s.setRv ((gmul (lowByte s.p0) (lowByte s.p1)).zeroExtend 64))

/-- Some entry of the table lies outside 1..n_in (R126). -/
def tableOutOfRange (nIn : Nat) (t : List Nat) : Bool := t.any fun e => decide (e < 1) || decide (nIn < e)

/-- The table of BITPERM: one entry per byte of PTAB (R126). -/
def State.permTable (s : State) : List Nat := s.mem.ptab.map (·.toNat)

/-- BITPERM (R126). -/
def execBitperm (s : State) : Answer :=
  if s.p0.toNat < 1 ∨ 64 < s.p0.toNat then raise .rv .contract s
  else if tableOutOfRange s.p0.toNat s.permTable then raise .rv .contract s
  else succeed (s.setRv (BitVec.ofNat 64 (permute (s.pv.toNat % 2 ^ s.p0.toNat) s.p0.toNat s.permTable)))

end Sys2Proof.Machine
end

