-- ==== Sys2Proof/Machine/CipherA.lean ====
section
/-! DEFINITION. Block Cipher A, the 128-bit SPN in counter mode: A_KEYEXP, A_BLOCK, A_CTR
(spec/42_cipher_a_spn.md). -/

namespace Sys2Proof.Machine

/-- `SBOX_A`, row by row, row label the high hexadecimal digit of the input byte (R161). -/
def sboxATable : List Byte :=
  [0x63, 0x7C, 0x77, 0x7B, 0xF2, 0x6B, 0x6F, 0xC5, 0x30, 0x01, 0x67, 0x2B, 0xFE, 0xD7, 0xAB, 0x76] ++
  [0xCA, 0x82, 0xC9, 0x7D, 0xFA, 0x59, 0x47, 0xF0, 0xAD, 0xD4, 0xA2, 0xAF, 0x9C, 0xA4, 0x72, 0xC0] ++
  [0xB7, 0xFD, 0x93, 0x26, 0x36, 0x3F, 0xF7, 0xCC, 0x34, 0xA5, 0xE5, 0xF1, 0x71, 0xD8, 0x31, 0x15] ++
  [0x04, 0xC7, 0x23, 0xC3, 0x18, 0x96, 0x05, 0x9A, 0x07, 0x12, 0x80, 0xE2, 0xEB, 0x27, 0xB2, 0x75] ++
  [0x09, 0x83, 0x2C, 0x1A, 0x1B, 0x6E, 0x5A, 0xA0, 0x52, 0x3B, 0xD6, 0xB3, 0x29, 0xE3, 0x2F, 0x84] ++
  [0x53, 0xD1, 0x00, 0xED, 0x20, 0xFC, 0xB1, 0x5B, 0x6A, 0xCB, 0xBE, 0x39, 0x4A, 0x4C, 0x58, 0xCF] ++
  [0xD0, 0xEF, 0xAA, 0xFB, 0x43, 0x4D, 0x33, 0x85, 0x45, 0xF9, 0x02, 0x7F, 0x50, 0x3C, 0x9F, 0xA8] ++
  [0x51, 0xA3, 0x40, 0x8F, 0x92, 0x9D, 0x38, 0xF5, 0xBC, 0xB6, 0xDA, 0x21, 0x10, 0xFF, 0xF3, 0xD2] ++
  [0xCD, 0x0C, 0x13, 0xEC, 0x5F, 0x97, 0x44, 0x17, 0xC4, 0xA7, 0x7E, 0x3D, 0x64, 0x5D, 0x19, 0x73] ++
  [0x60, 0x81, 0x4F, 0xDC, 0x22, 0x2A, 0x90, 0x88, 0x46, 0xEE, 0xB8, 0x14, 0xDE, 0x5E, 0x0B, 0xDB] ++
  [0xE0, 0x32, 0x3A, 0x0A, 0x49, 0x06, 0x24, 0x5C, 0xC2, 0xD3, 0xAC, 0x62, 0x91, 0x95, 0xE4, 0x79] ++
  [0xE7, 0xC8, 0x37, 0x6D, 0x8D, 0xD5, 0x4E, 0xA9, 0x6C, 0x56, 0xF4, 0xEA, 0x65, 0x7A, 0xAE, 0x08] ++
  [0xBA, 0x78, 0x25, 0x2E, 0x1C, 0xA6, 0xB4, 0xC6, 0xE8, 0xDD, 0x74, 0x1F, 0x4B, 0xBD, 0x8B, 0x8A] ++
  [0x70, 0x3E, 0xB5, 0x66, 0x48, 0x03, 0xF6, 0x0E, 0x61, 0x35, 0x57, 0xB9, 0x86, 0xC1, 0x1D, 0x9E] ++
  [0xE1, 0xF8, 0x98, 0x11, 0x69, 0xD9, 0x8E, 0x94, 0x9B, 0x1E, 0x87, 0xE9, 0xCE, 0x55, 0x28, 0xDF] ++
  [0x8C, 0xA1, 0x89, 0x0D, 0xBF, 0xE6, 0x42, 0x68, 0x41, 0x99, 0x2D, 0x0F, 0xB0, 0x54, 0xBB, 0x16]

/-- `SBOX_A[x]` (R161). -/
def sboxA (x : Byte) : Byte := sboxATable.getD x.toNat 0

/-- `RCON[1..10]` (R162). -/
def rconTable : List Byte := [0x01, 0x02, 0x04, 0x08, 0x10, 0x20, 0x40, 0x80, 0x1B, 0x36]

/-- `RCON[j]`, indexed from 1 (R162). -/
def rcon (j : Nat) : Byte := rconTable.getD (j - 1) 0

/-- Rotate left by one byte, substitute, XOR the constant into the first byte (R163). -/
def keyCore (t : List Byte) (j : Nat) : List Byte :=
  [sboxA (t.getD 1 0) ^^^ rcon j, sboxA (t.getD 2 0), sboxA (t.getD 3 0), sboxA (t.getD 0 0)]

/-- The transform of the previous word at byte offset i: `keyCore` at a multiple of 16, else the identity (R163). -/
def prevWord (w : List Byte) (i : Nat) : List Byte :=
  if i % 16 = 0 then keyCore ((w.drop (i - 4)).take 4) (i / 16) else (w.drop (i - 4)).take 4

/-- The word made at byte offset i: the word 16 bytes back XOR the transform of the previous word (R163). -/
def nextWord (w : List Byte) (i : Nat) : List Byte := xorb ((w.drop (i - 16)).take 4) (prevWord w i)

/-- `keyexp_a(key)`: the 176 bytes W, words made at offsets 16, 20, ..., 172 (R163). -/
def keyexpA (key : List Byte) : List Byte :=
  (List.range 40).foldl (fun w k => w ++ nextWord w (16 + 4 * k)) key

/-- `RK_A(r) = W[16r .. 16r+16)` (R163). -/
def roundKeyA (w : List Byte) (r : Nat) : List Byte := (w.drop (16 * r)).take 16

/-- `ark(s, r)`: key-XOR with round key r (R165). -/
def ark (w : List Byte) (r : Nat) (s : List Byte) : List Byte := xorb s (roundKeyA w r)

/-- `sub_a(s)`: byte substitution (R166). -/
def subA (s : List Byte) : List Byte := s.map sboxA

/-- `shift_a(s)`: `shift_a(s)[4c + r] = s[4*((c + r) mod 4) + r]` (R167), the cells being column-major (R164). -/
def shiftA (s : List Byte) : List Byte :=
  (List.range 16).map fun i => s.getD (4 * ((i / 4 + i % 4) % 4) + i % 4) 0

/-- One column replaced by the matrix {2,3,1,1} times it (R168). -/
def mixColumn (a0 a1 a2 a3 : Byte) : List Byte :=
  [gmul 2 a0 ^^^ gmul 3 a1 ^^^ a2 ^^^ a3,
   a0 ^^^ gmul 2 a1 ^^^ gmul 3 a2 ^^^ a3,
   a0 ^^^ a1 ^^^ gmul 2 a2 ^^^ gmul 3 a3,
   gmul 3 a0 ^^^ a1 ^^^ a2 ^^^ gmul 2 a3]

/-- `mix_a(s)`: column mixing of the four columns (R168). -/
def mixA (s : List Byte) : List Byte :=
  (List.range 4).flatMap fun c =>
    mixColumn (s.getD (4 * c) 0) (s.getD (4 * c + 1) 0) (s.getD (4 * c + 2) 0) (s.getD (4 * c + 3) 0)

/-- One full round r: substitution, row rotation, column mixing, key-XOR (R169). -/
def roundA (w : List Byte) (s : List Byte) (r : Nat) : List Byte := ark w r (mixA (shiftA (subA s)))

/-- `encblock_a(W, blk)`: initial key-XOR, nine full rounds, the final round without column mixing (R169). -/
def encblockA (w blk : List Byte) : List Byte :=
  ark w 10 (shiftA (subA ((List.range' 1 9).foldl (roundA w) (ark w 0 blk))))

/-- `inc128(c)`: the 16-byte counter plus one, big-endian, wrapping modulo 2^128 (R173). -/
def inc128 (c : List Byte) : List Byte := unbe 16 ((be c + 1) % 2 ^ 128)

/-- The loop of counter mode, k chunks left (R172, R174): the counter is used and then incremented; a short last
chunk takes the first bytes of its keystream block. -/
def ctrLoop (w : List Byte) : Nat → List Byte → List Byte → List Byte
  | 0, _, _ => []
  | k + 1, ctr, data =>
    xorb (data.take 16) ((encblockA w ctr).take (min 16 data.length)) ++ ctrLoop w k (inc128 ctr) (data.drop 16)

/-- `ctr_a(W, iv, data)`: ceil(n/16) chunks from the counter value iv (R172). -/
def ctrA (w iv data : List Byte) : List Byte := ctrLoop w ((data.length + 15) / 16) iv data

/-- A_KEYEXP (R175). -/
def execAKeyexp (s : State) : Answer :=
  if s.mem.key.length ≠ 16 then raise .dout .keylen s
  else succeed (s.putBytes .dout (keyexpA s.mem.key))

/-- A_BLOCK (R176). -/
def execABlock (s : State) : Answer :=
  if s.mem.key.length ≠ 16 then raise .dout .keylen s
  else if s.mem.din.length ≠ 16 then raise .dout .contract s
  else succeed (s.putBytes .dout (encblockA (keyexpA s.mem.key) s.mem.din))

/-- A_CTR, the same instruction for both values of DIR (R177). -/
def execACtr (_dir : BitVec 1) (s : State) : Answer :=
  if s.mem.key.length ≠ 16 then raise .dout .keylen s
  else if s.mem.iv.length ≠ 16 then raise .dout .ivlen s
  else succeed (s.putBytes .dout (ctrA (keyexpA s.mem.key) s.mem.iv s.mem.din))

end Sys2Proof.Machine
end

