-- ==== Sys2Proof/Machine/CipherB.lean ====
section
/-! DEFINITION. Block Cipher B, the 64-bit Feistel cipher in chained-block mode: B_KEYSCHED, B_BLOCK, B_CBC
(spec/43_cipher_b_feistel.md). Positions in tables count from 1 at the most significant bit (spec/40_utilities.md
R124). -/

namespace Sys2Proof.Machine

/-- `PC1`, 64 to 56 bits (R192). -/
def tablePC1 : List Nat :=
  [57, 49, 41, 33, 25, 17, 9] ++
  [1, 58, 50, 42, 34, 26, 18] ++
  [10, 2, 59, 51, 43, 35, 27] ++
  [19, 11, 3, 60, 52, 44, 36] ++
  [63, 55, 47, 39, 31, 23, 15] ++
  [7, 62, 54, 46, 38, 30, 22] ++
  [14, 6, 61, 53, 45, 37, 29] ++
  [21, 13, 5, 28, 20, 12, 4]

/-- `PC2`, 56 to 48 bits (R194). -/
def tablePC2 : List Nat :=
  [14, 17, 11, 24, 1, 5] ++
  [3, 28, 15, 6, 21, 10] ++
  [23, 19, 12, 4, 26, 8] ++
  [16, 7, 27, 20, 13, 2] ++
  [41, 52, 31, 37, 47, 55] ++
  [30, 40, 51, 45, 33, 48] ++
  [44, 49, 39, 56, 34, 53] ++
  [46, 42, 50, 36, 29, 32]

/-- `ROTS`, the rotation amounts of rounds 1 to 16 (R195). -/
def tableROTS : List Nat := [1, 1, 2, 2, 2, 2, 2, 2, 1, 2, 2, 2, 2, 2, 2, 1]

/-- `IP`, the initial permutation (R196). -/
def tableIP : List Nat :=
  [58, 50, 42, 34, 26, 18, 10, 2] ++
  [60, 52, 44, 36, 28, 20, 12, 4] ++
  [62, 54, 46, 38, 30, 22, 14, 6] ++
  [64, 56, 48, 40, 32, 24, 16, 8] ++
  [57, 49, 41, 33, 25, 17, 9, 1] ++
  [59, 51, 43, 35, 27, 19, 11, 3] ++
  [61, 53, 45, 37, 29, 21, 13, 5] ++
  [63, 55, 47, 39, 31, 23, 15, 7]

/-- `FP`, the inverse initial permutation (R197). -/
def tableFP : List Nat :=
  [40, 8, 48, 16, 56, 24, 64, 32] ++
  [39, 7, 47, 15, 55, 23, 63, 31] ++
  [38, 6, 46, 14, 54, 22, 62, 30] ++
  [37, 5, 45, 13, 53, 21, 61, 29] ++
  [36, 4, 44, 12, 52, 20, 60, 28] ++
  [35, 3, 43, 11, 51, 19, 59, 27] ++
  [34, 2, 42, 10, 50, 18, 58, 26] ++
  [33, 1, 41, 9, 49, 17, 57, 25]

/-- `E`, 32 to 48 bits (R198). -/
def tableE : List Nat :=
  [32, 1, 2, 3, 4, 5] ++
  [4, 5, 6, 7, 8, 9] ++
  [8, 9, 10, 11, 12, 13] ++
  [12, 13, 14, 15, 16, 17] ++
  [16, 17, 18, 19, 20, 21] ++
  [20, 21, 22, 23, 24, 25] ++
  [24, 25, 26, 27, 28, 29] ++
  [28, 29, 30, 31, 32, 1]

/-- `P`, 32 to 32 bits (R200). -/
def tableP : List Nat :=
  [16, 7, 20, 21] ++
  [29, 12, 28, 17] ++
  [1, 15, 23, 26] ++
  [5, 18, 31, 10] ++
  [2, 8, 24, 14] ++
  [32, 27, 3, 9] ++
  [19, 13, 30, 6] ++
  [22, 11, 4, 25]

/-- `SBOX_B[1]`, four rows of sixteen columns (R199). -/
def tableS1 : List Nat :=
  [14, 4, 13, 1, 2, 15, 11, 8, 3, 10, 6, 12, 5, 9, 0, 7] ++
  [0, 15, 7, 4, 14, 2, 13, 1, 10, 6, 12, 11, 9, 5, 3, 8] ++
  [4, 1, 14, 8, 13, 6, 2, 11, 15, 12, 9, 7, 3, 10, 5, 0] ++
  [15, 12, 8, 2, 4, 9, 1, 7, 5, 11, 3, 14, 10, 0, 6, 13]

/-- `SBOX_B[2]`, four rows of sixteen columns (R199). -/
def tableS2 : List Nat :=
  [15, 1, 8, 14, 6, 11, 3, 4, 9, 7, 2, 13, 12, 0, 5, 10] ++
  [3, 13, 4, 7, 15, 2, 8, 14, 12, 0, 1, 10, 6, 9, 11, 5] ++
  [0, 14, 7, 11, 10, 4, 13, 1, 5, 8, 12, 6, 9, 3, 2, 15] ++
  [13, 8, 10, 1, 3, 15, 4, 2, 11, 6, 7, 12, 0, 5, 14, 9]

/-- `SBOX_B[3]`, four rows of sixteen columns (R199). -/
def tableS3 : List Nat :=
  [10, 0, 9, 14, 6, 3, 15, 5, 1, 13, 12, 7, 11, 4, 2, 8] ++
  [13, 7, 0, 9, 3, 4, 6, 10, 2, 8, 5, 14, 12, 11, 15, 1] ++
  [13, 6, 4, 9, 8, 15, 3, 0, 11, 1, 2, 12, 5, 10, 14, 7] ++
  [1, 10, 13, 0, 6, 9, 8, 7, 4, 15, 14, 3, 11, 5, 2, 12]

/-- `SBOX_B[4]`, four rows of sixteen columns (R199). -/
def tableS4 : List Nat :=
  [7, 13, 14, 3, 0, 6, 9, 10, 1, 2, 8, 5, 11, 12, 4, 15] ++
  [13, 8, 11, 5, 6, 15, 0, 3, 4, 7, 2, 12, 1, 10, 14, 9] ++
  [10, 6, 9, 0, 12, 11, 7, 13, 15, 1, 3, 14, 5, 2, 8, 4] ++
  [3, 15, 0, 6, 10, 1, 13, 8, 9, 4, 5, 11, 12, 7, 2, 14]

/-- `SBOX_B[5]`, four rows of sixteen columns (R199). -/
def tableS5 : List Nat :=
  [2, 12, 4, 1, 7, 10, 11, 6, 8, 5, 3, 15, 13, 0, 14, 9] ++
  [14, 11, 2, 12, 4, 7, 13, 1, 5, 0, 15, 10, 3, 9, 8, 6] ++
  [4, 2, 1, 11, 10, 13, 7, 8, 15, 9, 12, 5, 6, 3, 0, 14] ++
  [11, 8, 12, 7, 1, 14, 2, 13, 6, 15, 0, 9, 10, 4, 5, 3]

/-- `SBOX_B[6]`, four rows of sixteen columns (R199). -/
def tableS6 : List Nat :=
  [12, 1, 10, 15, 9, 2, 6, 8, 0, 13, 3, 4, 14, 7, 5, 11] ++
  [10, 15, 4, 2, 7, 12, 9, 5, 6, 1, 13, 14, 0, 11, 3, 8] ++
  [9, 14, 15, 5, 2, 8, 12, 3, 7, 0, 4, 10, 1, 13, 11, 6] ++
  [4, 3, 2, 12, 9, 5, 15, 10, 11, 14, 1, 7, 6, 0, 8, 13]

/-- `SBOX_B[7]`, four rows of sixteen columns (R199). -/
def tableS7 : List Nat :=
  [4, 11, 2, 14, 15, 0, 8, 13, 3, 12, 9, 7, 5, 10, 6, 1] ++
  [13, 0, 11, 7, 4, 9, 1, 10, 14, 3, 5, 12, 2, 15, 8, 6] ++
  [1, 4, 11, 13, 12, 3, 7, 14, 10, 15, 6, 8, 0, 5, 9, 2] ++
  [6, 11, 13, 8, 1, 4, 10, 7, 9, 5, 0, 15, 14, 2, 3, 12]

/-- `SBOX_B[8]`, four rows of sixteen columns (R199). -/
def tableS8 : List Nat :=
  [13, 2, 8, 4, 6, 15, 11, 1, 10, 9, 3, 14, 5, 0, 12, 7] ++
  [1, 15, 13, 8, 10, 3, 7, 4, 12, 5, 6, 11, 0, 14, 9, 2] ++
  [7, 11, 4, 1, 9, 12, 14, 2, 0, 6, 10, 13, 15, 3, 5, 8] ++
  [2, 1, 14, 7, 4, 10, 8, 13, 15, 12, 9, 0, 3, 5, 6, 11]

/-- The eight boxes, box 1 first (R199). -/
def tableSBoxes : List (List Nat) := [tableS1, tableS2, tableS3, tableS4, tableS5, tableS6, tableS7, tableS8]

/-- `keysched_b`'s rounds: rotate both halves, then take the subkey; rotations accumulate (R201). -/
def keyschedLoop : List Nat → BitVec 28 → BitVec 28 → List (BitVec 48)
  | [], _, _ => []
  | r :: rs, c, d =>
    permuteTo 48 (rotl28 c r ++ rotl28 d r) tablePC2 :: keyschedLoop rs (rotl28 c r) (rotl28 d r)

/-- The 56 selected key bits (R191, R201). -/
def keyBits56 (key : List Byte) : BitVec 56 := permuteTo 56 (BitVec.ofNat 64 (be key)) tablePC1

/-- `keysched_b(key)`: the sixteen subkeys, SK_B(1) first (R201). -/
def keyschedB (key : List Byte) : List (BitVec 48) :=
  keyschedLoop tableROTS ((keyBits56 key).extractLsb' 28 28) ((keyBits56 key).extractLsb' 0 28)

/-- `sbox_b(i, g)` with i from 0: row from the two outer bits, column from the four inner bits (R202). -/
def sboxB (i : Nat) (g : BitVec 6) : BitVec 4 :=
  BitVec.ofNat 4 ((tableSBoxes.getD i []).getD
    (16 * (2 * (g.extractLsb' 5 1).toNat + (g.extractLsb' 0 1).toNat) + (g.extractLsb' 1 4).toNat) 0)

/-- The eight box outputs, box 1's the most significant (R203). -/
def substituteB (x : BitVec 48) : BitVec 32 :=
  (List.range 8).foldl (fun y i => (y <<< 4) ||| (sboxB i (x.extractLsb' (42 - 6 * i) 6)).zeroExtend 32) 0

/-- `f_b(R, K)`: expand, XOR the subkey, substitute, permute (R203). -/
def feistelB (r : BitVec 32) (k : BitVec 48) : BitVec 32 :=
  permuteTo 32 (substituteB (permuteTo 48 r tableE ^^^ k)) tableP

/-- The direction of the block transform (R204). -/
inductive Dir
  | enc | dec
  deriving DecidableEq, Repr

/-- The subkeys in the order the rounds use them: SK(i), or SK(17 − i) to decrypt (R204). -/
def subkeyOrder (sk : List (BitVec 48)) : Dir → List (BitVec 48)
  | .enc => sk
  | .dec => sk.reverse

/-- The rounds: `(L, R) <- (R, L XOR f_b(R, K))` for each subkey (R204). -/
def roundsB : List (BitVec 48) → BitVec 32 → BitVec 32 → BitVec 32 × BitVec 32
  | [], l, r => (l, r)
  | k :: ks, l, r => roundsB ks r (l ^^^ feistelB r k)

/-- The 64-bit core of the block transform: initial permutation, the rounds, the halves swapped, the inverse initial
permutation (R204). -/
def blockB64 (ks : List (BitVec 48)) (v : BitVec 64) : BitVec 64 :=
  let w : BitVec 64 := permuteTo 64 v tableIP
  let lr := roundsB ks (w.extractLsb' 32 32) (w.extractLsb' 0 32)
  permuteTo 64 (lr.2 ++ lr.1) tableFP

/-- `block_b(SK, blk, dir)` (R204). -/
def blockB (sk : List (BitVec 48)) (blk : List Byte) (dir : Dir) : List Byte :=
  unbe 8 (blockB64 (subkeyOrder sk dir) (BitVec.ofNat 64 (be blk))).toNat

/-- The number of padding bytes for a message of n bytes, 1 to 8 (R206). -/
def padLen (n : Nat) : Nat := 8 - n % 8

/-- `pad7(m)` (R206). -/
def pad7 (m : List Byte) : List Byte := m ++ List.replicate (padLen m.length) (BitVec.ofNat 8 (padLen m.length))

/-- `unpad7(q)`: none where it raises ERR_PAD (R207). -/
def unpad7 (q : List Byte) : Option (List Byte) :=
  match q.getLast? with
  | none => none
  | some v =>
    if v.toNat < 1 ∨ 8 < v.toNat then none
    else if (q.drop (q.length - v.toNat)).any (· != v) then none
    else some (q.take (q.length - v.toNat))

/-- The loop of chained encryption, k blocks left (R208). -/
def cbcEncLoop (sk : List (BitVec 48)) : Nat → List Byte → List Byte → List Byte
  | 0, _, _ => []
  | k + 1, prev, q =>
    let c := blockB sk (xorb (q.take 8) prev) .enc
    c ++ cbcEncLoop sk k c (q.drop 8)

/-- `cbc_enc_b(SK, iv, m)` (R208). -/
def cbcEncB (sk : List (BitVec 48)) (iv m : List Byte) : List Byte :=
  cbcEncLoop sk ((pad7 m).length / 8) iv (pad7 m)

/-- The loop of chained decryption, k blocks left (R209). -/
def cbcDecLoop (sk : List (BitVec 48)) : Nat → List Byte → List Byte → List Byte
  | 0, _, _ => []
  | k + 1, prev, ct =>
    xorb (blockB sk (ct.take 8) .dec) prev ++ cbcDecLoop sk k (ct.take 8) (ct.drop 8)

/-- `cbc_dec_b(SK, iv, ct)`: all blocks are decrypted, then the padding is examined; none where it raises ERR_PAD
(R209). -/
def cbcDecB (sk : List (BitVec 48)) (iv ct : List Byte) : Option (List Byte) :=
  unpad7 (cbcDecLoop sk (ct.length / 8) iv ct)

/-- B_KEYSCHED (R212). -/
def execBKeysched (s : State) : Answer :=
  if s.mem.key.length ≠ 8 then raise .dout .keylen s
  else succeed (s.putBytes .dout ((keyschedB s.mem.key).flatMap fun k => unbe 6 k.toNat))

/-- The single-block commands of both directions (R213, R214). -/
def blockCommandB (dir : Dir) (s : State) : Answer :=
  if s.mem.key.length ≠ 8 then raise .dout .keylen s
  else if s.mem.din.length ≠ 8 then raise .dout .contract s
  else succeed (s.putBytes .dout (blockB (keyschedB s.mem.key) s.mem.din dir))

/-- B_BLOCK.E (R213). -/
def execBBlockE (s : State) : Answer := blockCommandB .enc s

/-- B_BLOCK.D (R214). -/
def execBBlockD (s : State) : Answer := blockCommandB .dec s

/-- B_CBC.E (R215). -/
def execBCbcE (s : State) : Answer :=
  if s.mem.key.length ≠ 8 then raise .dout .keylen s
  else if s.mem.iv.length ≠ 8 then raise .dout .ivlen s
  else if s.cfg.bufCap < s.mem.din.length + 8 - s.mem.din.length % 8 then raise .dout .cap s
  else succeed (s.putBytes .dout (cbcEncB (keyschedB s.mem.key) s.mem.iv s.mem.din))

/-- B_CBC.D (R216). -/
def execBCbcD (s : State) : Answer :=
  if s.mem.key.length ≠ 8 then raise .dout .keylen s
  else if s.mem.iv.length ≠ 8 then raise .dout .ivlen s
  else if s.mem.din.length % 8 ≠ 0 then raise .dout .ctlen s
  else finishBytes .pad (cbcDecB (keyschedB s.mem.key) s.mem.iv s.mem.din) s

end Sys2Proof.Machine
end

