-- ==== Sys2Proof/Machine/Classical1.lean ====
section
/-! DEFINITION. The classical suite, part 1: SHIFT, POLY, ROT13, TRANSP, FRACT (spec/44_classical_1.md). -/

namespace Sys2Proof.Machine

/-- `rotc(c, k)`: a letter rotated by k keeping its case; any other cell unchanged (R232). -/
def rotc (c : Cell) (k : Nat) : Cell :=
  if isup c then upc ((idx c + k) % 26) else if islo c then loc ((idx c + k) % 26) else c

/-- The decrypting shift `k' = (26 − k) mod 26` (R231). -/
def negShift (k : Nat) : Nat := (26 - k) % 26

/-- SHIFT.E (R233). -/
def execShiftE (s : State) : Answer := succeed (s.putCells .tout (s.mem.tin.map fun c => rotc c (param26 s.p0)))

/-- SHIFT.D (R234). -/
def execShiftD (s : State) : Answer :=
  succeed (s.putCells .tout (s.mem.tin.map fun c => rotc c (negShift (param26 s.p0))))

/-- The key of POLY is usable: not empty and all letters (R236). -/
def polyKeyOk (key : List Cell) : Bool := decide (0 < key.length) && key.all islet

/-- `poly(text, key, sign)` from key position j: `eff` turns a key letter's index into the shift applied, the index
itself to add, its negation modulo 26 to subtract; the key advances on letters only (R237). -/
def polyLoop (eff : Nat → Nat) (key : List Cell) : Nat → List Cell → List Cell
  | _, [] => []
  | j, c :: cs =>
    if islet c then rotc c (eff (idx (key.getD (j % key.length) 0))) :: polyLoop eff key (j + 1) cs
    else c :: polyLoop eff key j cs

/-- `poly(text, key, add)` (R237). -/
def polyAdd (text key : List Cell) : List Cell := polyLoop id key 0 text

/-- `poly(text, key, sub)` (R237). -/
def polySub (text key : List Cell) : List Cell := polyLoop negShift key 0 text

/-- POLY.E (R238); the key is checked before the text is looked at (R236). -/
def execPolyE (s : State) : Answer :=
  if polyKeyOk s.mem.tkey then succeed (s.putCells .tout (polyAdd s.mem.tin s.mem.tkey))
  else raise .tout .contract s

/-- POLY.D (R239). -/
def execPolyD (s : State) : Answer :=
  if polyKeyOk s.mem.tkey then succeed (s.putCells .tout (polySub s.mem.tin s.mem.tkey))
  else raise .tout .contract s

/-- ROT13, the same instruction for both values of DIR; P0 is not read (R242). -/
def execRot13 (_dir : BitVec 1) (s : State) : Answer :=
  succeed (s.putCells .tout (s.mem.tin.map fun c => rotc c 13))

/-- Insert column `col` into a list of columns sorted by key cell, after the equal ones (R244). -/
def insertColumn (key : List Cell) (col : Nat) : List Nat → List Nat
  | [] => [col]
  | d :: ds =>
    if (key.getD col 0).toNat < (key.getD d 0).toNat then col :: d :: ds else d :: insertColumn key col ds

/-- `colorder(key)`: the columns by ascending unsigned cell value, equal values in ascending index (R244). -/
def colorder (key : List Cell) : List Nat :=
  (List.range key.length).foldl (fun order col => insertColumn key col order) []

/-- The text with every space removed (R245). -/
def stripSpaces (text : List Cell) : List Cell := text.filter (· != spaceCell)

/-- `ceil(L / m)` (00_scope.md R10). -/
def ceilDiv (a m : Nat) : Nat := (a + m - 1) / m

/-- The spaces stripped and the last row padded with the filler (R245). -/
def padGrid (fill : Cell) (text : List Cell) (m : Nat) : List Cell :=
  stripSpaces text ++
    List.replicate (ceilDiv (stripSpaces text).length m * m - (stripSpaces text).length) fill

/-- `transp_enc(text, key)`: the columns of the padded grid read out in sorted order (R245). -/
def transpEnc (fill : Cell) (text key : List Cell) : List Cell :=
  (colorder key).flatMap fun col =>
    (List.range (ceilDiv (stripSpaces text).length key.length)).map fun r =>
      (padGrid fill text key.length).getD (r * key.length + col) fill

/-- Grid cell g of decryption: column `g mod m` was read k-th, so its row r stands at `k*R + r`; a missing cell stays
the filler (R246). -/
def transpGridCell (fill : Cell) (text key : List Cell) (g : Nat) : Cell :=
  text.getD ((colorder key).idxOf (g % key.length) * ceilDiv text.length key.length + g / key.length) fill

/-- `transp_dec(text, key)`: the grid filled in sorted order, read row-major, every filler cell dropped (R246). -/
def transpDec (fill : Cell) (text key : List Cell) : List Cell :=
  ((List.range (ceilDiv text.length key.length * key.length)).map (transpGridCell fill text key)).filter (· != fill)

/-- TRANSP.E (R247). -/
def execTranspE (s : State) : Answer :=
  if s.mem.tkey.length = 0 then raise .tout .contract s
  else if s.cfg.bufCap < ceilDiv (stripSpaces s.mem.tin).length s.mem.tkey.length * s.mem.tkey.length then
    raise .tout .cap s
  else succeed (s.putCells .tout (transpEnc s.cfg.fillT s.mem.tin s.mem.tkey))

/-- TRANSP.D (R248). -/
def execTranspD (s : State) : Answer :=
  if s.mem.tkey.length = 0 then raise .tout .contract s
  else succeed (s.putCells .tout (transpDec s.cfg.fillT s.mem.tin s.mem.tkey))

/-- `GRID5` as letter indices in row-major order; J (9) has no cell (R251). -/
def grid5 : List Nat :=
  [0, 1, 2, 3, 4] ++ [5, 6, 7, 8, 10] ++ [11, 12, 13, 14, 15] ++ [16, 17, 18, 19, 20] ++ [21, 22, 23, 24, 25]

/-- The grid position of a letter index, J sharing I's (R251, R252). -/
def gridPos (i : Nat) : Nat := grid5.idxOf (if i = 9 then 8 else i)

/-- `fract_enc(text)`: each letter becomes its row digit and its column digit (R252). -/
def fractEnc (text : List Cell) : List Cell :=
  text.flatMap fun c =>
    if islet c then
      [BitVec.ofNat 32 (0x31 + gridPos (idx c) / 5), BitVec.ofNat 32 (0x31 + gridPos (idx c) % 5)]
    else [c]

/-- A digit '1' to '5' (R252). -/
def isCoord (c : Cell) : Bool := decide (0x31 ≤ c.toNat) && decide (c.toNat ≤ 0x35)

/-- The letter at a pair of coordinate digits (R252). -/
def gridLetter (c d : Cell) : Cell := upc (grid5.getD ((c.toNat - 0x31) * 5 + (d.toNat - 0x31)) 0)

/-- `fract_dec(text)`: two coordinate digits become a letter, else one cell passes through (R252). -/
def fractDec : List Cell → List Cell
  | [] => []
  | [c] => [c]
  | c :: d :: rest =>
    if isCoord c && isCoord d then gridLetter c d :: fractDec rest else c :: fractDec (d :: rest)

/-- The number of letter cells of a text (R253, 45_classical_2.md R279). -/
def letterCount (text : List Cell) : Nat := text.countP islet

/-- FRACT.E (R253). -/
def execFractE (s : State) : Answer :=
  if s.cfg.bufCap < s.mem.tin.length + letterCount s.mem.tin then raise .tout .cap s
  else succeed (s.putCells .tout (fractEnc s.mem.tin))

/-- FRACT.D (R254). -/
def execFractD (s : State) : Answer := succeed (s.putCells .tout (fractDec s.mem.tin))

end Sys2Proof.Machine
end

