-- ==== Sys2Proof/Machine/Classical2.lean ====
section
/-! DEFINITION. The classical suite, part 2: PICTO, HILL, RAIL, MULT, PASS (spec/45_classical_2.md). -/

namespace Sys2Proof.Machine

/-- `picto_enc` of one cell: an upper-case letter becomes its symbol (R271). -/
def pictoEncCell (picto : List Cell) (c : Cell) : Cell := if isup c then picto.getD (idx c) c else c

/-- `picto_dec` of one cell: a symbol becomes its upper-case letter (R271). -/
def pictoDecCell (picto : List Cell) (c : Cell) : Cell := if c ∈ picto then upc (picto.idxOf c) else c

/-- PICTO.E (R272). -/
def execPictoE (s : State) : Answer := succeed (s.putCells .tout (s.mem.tin.map (pictoEncCell s.cfg.picto)))

/-- PICTO.D (R273). -/
def execPictoD (s : State) : Answer := succeed (s.putCells .tout (s.mem.tin.map (pictoDecCell s.cfg.picto)))

/-- A 2×2 matrix with entries in 0..25, row by row (R276, R277). -/
structure Matrix26 where
  m00 : Nat
  m01 : Nat
  m10 : Nat
  m11 : Nat
  deriving DecidableEq, Repr

/-- The key matrix of P0 to P3, reduced at once (R276, R277). -/
def State.hillMatrix (s : State) : Matrix26 where
  m00 := param26 s.p0
  m01 := param26 s.p1
  m10 := param26 s.p2
  m11 := param26 s.p3

/-- `inv26(v)`: the least i in 1..25 with `(v*i) mod 26 = 1`, or none (R277). -/
def inv26 (v : Nat) : Option Nat := (List.range' 1 25).find? fun i => v * i % 26 == 1

/-- `det = (a'*d' − b'*c') mod 26` (R277). -/
def det26 (m : Matrix26) : Nat := floorMod26 ((m.m00 : Int) * m.m11 - (m.m01 : Int) * m.m10)

/-- `hill_inverse`: the adjugate times the determinant's inverse, none where there is none (R278). -/
def hillInverse (m : Matrix26) : Option Matrix26 :=
  match inv26 (det26 m) with
  | none => none
  | some n =>
    some { m00 := m.m11 * n % 26, m01 := (26 - m.m01) * n % 26, m10 := (26 - m.m10) * n % 26, m11 := m.m00 * n % 26 }

/-- The letter indices of a text in order, non-letters discarded, case folded, the filler appended if their number
is odd (R278). -/
def hillIndices (fill : Nat) (text : List Cell) : List Nat :=
  let v := (text.filter islet).map idx
  if v.length % 2 = 1 then v ++ [fill] else v

/-- The matrix applied to each pair, as a column vector (R278). -/
def hillPairs (m : Matrix26) : List Nat → List Cell
  | x :: y :: rest =>
    upc ((m.m00 * x + m.m01 * y) % 26) :: upc ((m.m10 * x + m.m11 * y) % 26) :: hillPairs m rest
  | _ => []

/-- `hill_apply(text, m)` (R278). -/
def hillApply (fill : Nat) (text : List Cell) (m : Matrix26) : List Cell := hillPairs m (hillIndices fill text)

/-- The tail shared by the two HILL commands: the capacity test, then the result (R279, R280). -/
def hillFinish (m : Matrix26) (s : State) : Answer :=
  if s.cfg.bufCap < letterCount s.mem.tin + letterCount s.mem.tin % 2 then raise .tout .cap s
  else succeed (s.putCells .tout (hillApply s.cfg.fillH s.mem.tin m))

/-- HILL.E: any matrix is accepted (R279). -/
def execHillE (s : State) : Answer := hillFinish s.hillMatrix s

/-- HILL.D: ERR_NOINVERSE is raised before the text is read (R280). -/
def execHillD (s : State) : Answer :=
  match hillInverse s.hillMatrix with
  | none => raise .tout .noinverse s
  | some m => hillFinish m s

/-- The rail of position p for N ≥ 2 rails: with period 2(N − 1) and q = p mod period, q if q < N, else period − q
(R283). -/
def railOf (n p : Nat) : Nat :=
  if p % (2 * (n - 1)) < n then p % (2 * (n - 1)) else 2 * (n - 1) - p % (2 * (n - 1))

/-- The positions of a text of L cells that lie on rail r, in order (R283). -/
def railPositions (n len r : Nat) : List Nat := (List.range len).filter fun p => railOf n p == r

/-- `rail_enc(text, N)`: the rails concatenated in order (R284). -/
def railEnc (text : List Cell) (n : Nat) : List Cell :=
  (List.range (min n text.length)).flatMap fun r => (railPositions n text.length r).map fun p => text.getD p 0

/-- `start[r] = cnt[0] + ... + cnt[r−1]` (R284). -/
def railStart (n len r : Nat) : Nat := ((List.range r).map fun q => (railPositions n len q).length).sum

/-- Where position p of the plaintext stands in the ciphertext: its rail's start plus how many earlier positions of
that rail have been taken (R284). -/
def railIndex (n len p : Nat) : Nat := railStart n len (railOf n p) + (railPositions n p (railOf n p)).length

/-- `rail_dec(text, N)` (R284). -/
def railDec (text : List Cell) (n : Nat) : List Cell :=
  (List.range text.length).map fun p => text.getD (railIndex n text.length p) 0

/-- RAIL.E: N < 2 is the identity (R283, R285). -/
def execRailE (s : State) : Answer :=
  if sext32 s.p0 < 2 then succeed (s.putCells .tout s.mem.tin)
  else succeed (s.putCells .tout (railEnc s.mem.tin (sext32 s.p0).toNat))

/-- RAIL.D: N < 2 is the identity (R283, R286). -/
def execRailD (s : State) : Answer :=
  if sext32 s.p0 < 2 then succeed (s.putCells .tout s.mem.tin)
  else succeed (s.putCells .tout (railDec s.mem.tin (sext32 s.p0).toNat))

/-- `mulc(c, k)`: a letter's index multiplied by k modulo 26 keeping its case; any other cell unchanged (R291). -/
def mulc (c : Cell) (k : Nat) : Cell :=
  if isup c then upc (idx c * k % 26) else if islo c then loc (idx c * k % 26) else c

/-- MULT.E: any key is accepted (R292). -/
def execMultE (s : State) : Answer := succeed (s.putCells .tout (s.mem.tin.map fun c => mulc c (param26 s.p0)))

/-- MULT.D: ERR_NOINVERSE is raised before the text is read (R293). -/
def execMultD (s : State) : Answer :=
  match inv26 (param26 s.p0) with
  | none => raise .tout .noinverse s
  | some n => succeed (s.putCells .tout (s.mem.tin.map fun c => mulc c n))

/-- PASS, the same instruction for both values of DIR (R296). -/
def execPass (_dir : BitVec 1) (s : State) : Answer := succeed (s.putCells .tout s.mem.tin)

end Sys2Proof.Machine
end

