-- ==== Sys2Proof/Machine/Derivation.lean ====
section
/-! DEFINITION. Key and IV derivation: DERIVE_KEY and GEN_IV (spec/41_derivation.md). -/

namespace Sys2Proof.Machine

/-- `derive(pw, n)`: n bytes of 0x00 for the empty passphrase, else `k[i] = pw[i mod L]` (R140). -/
def deriveKey (pw : List Byte) (n : Nat) : List Byte :=
  if pw.length = 0 then List.replicate n 0
  else (List.range n).map fun i => pw.getD (i % pw.length) 0

/-- DERIVE_KEY.A (R141). -/
def execDeriveKeyA (s : State) : Answer := succeed (s.putBytes .key (deriveKey s.mem.din 16))

/-- DERIVE_KEY.B (R142). -/
def execDeriveKeyB (s : State) : Answer := succeed (s.putBytes .key (deriveKey s.mem.din 8))

/-- `xs64(x)`: the xorshift step with shifts 13, 7, 17 (R148). -/
def xs64 (x : DWord) : DWord :=
  let a := x ^^^ (x <<< 13)
  let b := a ^^^ (a >>> 7)
  b ^^^ (b <<< 17)

/-- `IVMIX_REF(t, c, 8)` (R148). -/
def ivMixRef8 (t c : DWord) : List Byte := unbe 8 (xs64 (t ^^^ c)).toNat

/-- `IVMIX_REF(t, c, 16)` (R148). -/
def ivMixRef16 (t c : DWord) : List Byte :=
  unbe 8 (xs64 (t ^^^ c)).toNat ++ unbe 8 (xs64 (xs64 (t ^^^ c))).toNat

/-- `IVMIX(t, c, 8)` for the configuration's choice of the parameter (R147; log entry 1). -/
def ivMix8 (m : IvMix) (t c : DWord) : List Byte :=
  match m with
  | .reference => ivMixRef8 t c
  | .arbitrary => unbe 8 (Config.anyIvMix8 t c).toNat

/-- `IVMIX(t, c, 16)` for the configuration's choice of the parameter (R147; log entry 1). -/
def ivMix16 (m : IvMix) (t c : DWord) : List Byte :=
  match m with
  | .reference => ivMixRef16 t c
  | .arbitrary => unbe 16 (Config.anyIvMix16 t (c.zeroExtend 128)).toNat

/-- `IVCTR <- (c + 1) mod 2^64`, together with the sample taken (R149). -/
def State.advanceIvctr (s : State) : State := (s.setIvctr (s.ivctr + 1)).countDraw

/-- GEN_IV.A (R149): the time sampled once, the counter used and then advanced, in one step. -/
def execGenIvA (s : State) : Answer :=
  succeed ((s.putBytes .iv (ivMix16 s.cfg.ivmix s.sampleTime s.ivctr)).advanceIvctr)

/-- GEN_IV.B (R150). -/
def execGenIvB (s : State) : Answer :=
  succeed ((s.putBytes .iv (ivMix8 s.cfg.ivmix s.sampleTime s.ivctr)).advanceIvctr)

end Sys2Proof.Machine
end

