-- ==== Sys2Proof/Machine/Envelope.lean ====
section
/-! DEFINITION. Envelope, base64 and buffer moves: ENV_PACK, ENV_UNPACK, B64, MOVB, MOVT (spec/46_envelope.md). -/

namespace Sys2Proof.Machine

/-- `IV ‖ ciphertext` for an IV of n bytes (R310, R312). -/
def envPack (n : Nat) (s : State) : Answer :=
  if s.mem.iv.length ≠ n then raise .dout .ivlen s
  else if s.cfg.bufCap < n + s.mem.din.length then raise .dout .cap s
  else succeed (s.putBytes .dout (s.mem.iv ++ s.mem.din))

/-- ENV_PACK.A (R312). -/
def execEnvPackA (s : State) : Answer := envPack 16 s

/-- ENV_PACK.B (R313). -/
def execEnvPackB (s : State) : Answer := envPack 8 s

/-- The first n bytes to IV, the rest to DOUT; on failure IV is left as it was (R314). -/
def envUnpack (n : Nat) (s : State) : Answer :=
  if s.mem.din.length < n then raise .dout .envelope s
  else succeed ((s.putBytes .iv (s.mem.din.take n)).putBytes .dout (s.mem.din.drop n))

/-- ENV_UNPACK.A (R314). -/
def execEnvUnpackA (s : State) : Answer := envUnpack 16 s

/-- ENV_UNPACK.B (R315). -/
def execEnvUnpackB (s : State) : Answer := envUnpack 8 s

/-- `B64ALPHA[v]` for v in 0..63 (R320). -/
def b64Char (v : Nat) : Byte :=
  if v < 26 then BitVec.ofNat 8 (0x41 + v)
  else if v < 52 then BitVec.ofNat 8 (0x61 + (v - 26))
  else if v < 62 then BitVec.ofNat 8 (0x30 + (v - 52))
  else if v = 62 then 0x2B else 0x2F

/-- The value of an alphabet character, none for any other byte (R320, R321). -/
def b64Value (c : Byte) : Option Nat :=
  if 0x41 ≤ c.toNat ∧ c.toNat ≤ 0x5A then some (c.toNat - 0x41)
  else if 0x61 ≤ c.toNat ∧ c.toNat ≤ 0x7A then some (c.toNat - 0x61 + 26)
  else if 0x30 ≤ c.toNat ∧ c.toNat ≤ 0x39 then some (c.toNat - 0x30 + 52)
  else if c.toNat = 0x2B then some 62
  else if c.toNat = 0x2F then some 63
  else none

/-- The pad character '=' (R320). -/
def b64Pad : Byte := 0x3D

/-- Character j (0 first) of the 24-bit group v: its 6 bits from the top (R321). -/
def b64GroupChar (v j : Nat) : Byte := b64Char (v >>> (18 - 6 * j) % 64)

/-- `b64_enc(b)`: groups of three bytes to four characters, a short last group padded (R321). -/
def b64Enc : List Byte → List Byte
  | [] => []
  | [a] =>
    let v := be [a] <<< 16
    [b64GroupChar v 0, b64GroupChar v 1, b64Pad, b64Pad]
  | [a, b] =>
    let v := be [a, b] <<< 8
    [b64GroupChar v 0, b64GroupChar v 1, b64GroupChar v 2, b64Pad]
  | a :: b :: c :: rest =>
    let v := be [a, b, c]
    b64GroupChar v 0 :: b64GroupChar v 1 :: b64GroupChar v 2 :: b64GroupChar v 3 :: b64Enc rest

/-- The 6-bit values of characters, most significant first, as one number; none if one is not in the alphabet
(R321). -/
def b64Values : List Byte → Nat → Option Nat
  | [], v => some v
  | c :: cs, v =>
    match b64Value c with
    | none => none
    | some x => b64Values cs (v * 64 + x)

/-- A group with `pad` of its four characters being padding: the data characters' value shifted left by 6 per pad
character, and its first 3 − pad bytes (R321). The unused low bits are ignored. -/
def b64Group (q : List Byte) (pad : Nat) : Option (List Byte) :=
  match b64Values (q.take (4 - pad)) 0 with
  | none => none
  | some v => some ((unbe 3 (v <<< (6 * pad))).take (3 - pad))

/-- How many characters of the last group are padding (R321). -/
def b64PadCount (q2 q3 : Byte) : Nat := if q3 = b64Pad then (if q2 = b64Pad then 2 else 1) else 0

/-- `b64_dec(t)`: none where it fails (R321). Padding is looked for in the last group only, and a length that is not
a multiple of 4 fails. -/
def b64Dec : List Byte → Option (List Byte)
  | [] => some []
  | [q0, q1, q2, q3] => b64Group [q0, q1, q2, q3] (b64PadCount q2 q3)
  | q0 :: q1 :: q2 :: q3 :: rest =>
    match b64Group [q0, q1, q2, q3] 0, b64Dec rest with
    | some g, some out => some (g ++ out)
    | _, _ => none
  | _ => none

/-- B64.E (R322). -/
def execB64E (s : State) : Answer :=
  if s.cfg.bufCap < 4 * ((s.mem.din.length + 2) / 3) then raise .dout .cap s
  else succeed (s.putBytes .dout (b64Enc s.mem.din))

/-- B64.D (R323). -/
def execB64D (s : State) : Answer := finishBytes .b64 (b64Dec s.mem.din) s

/-- MOVB (R334). -/
def execMovb (s : State) : Answer := succeed (s.putBytes .din s.mem.dout)

/-- MOVT (R335). -/
def execMovt (s : State) : Answer := succeed (s.putCells .tin s.mem.tout)

end Sys2Proof.Machine
end

