-- ==== Sys2Proof/Machine/Dispatch.lean ====
section
/-! DEFINITION. One arm per command (spec/30_encoding.md R93), each a direct call of its meaning. -/

namespace Sys2Proof.Machine

def exec (i : Instr) (s : State) : Host.Outcome State Fault Refusal :=
  match i with
  | .gfmul => Sys2Proof.Machine.execGfmul s
  | .bitperm => Sys2Proof.Machine.execBitperm s
  | .deriveKeyA => Sys2Proof.Machine.execDeriveKeyA s
  | .deriveKeyB => Sys2Proof.Machine.execDeriveKeyB s
  | .genIvA => Sys2Proof.Machine.execGenIvA s
  | .genIvB => Sys2Proof.Machine.execGenIvB s
  | .aKeyexp => Sys2Proof.Machine.execAKeyexp s
  | .aBlock => Sys2Proof.Machine.execABlock s
  | .aCtr dir => Sys2Proof.Machine.execACtr dir s
  | .bKeysched => Sys2Proof.Machine.execBKeysched s
  | .bBlockE => Sys2Proof.Machine.execBBlockE s
  | .bBlockD => Sys2Proof.Machine.execBBlockD s
  | .bCbcE => Sys2Proof.Machine.execBCbcE s
  | .bCbcD => Sys2Proof.Machine.execBCbcD s
  | .shiftE => Sys2Proof.Machine.execShiftE s
  | .shiftD => Sys2Proof.Machine.execShiftD s
  | .polyE => Sys2Proof.Machine.execPolyE s
  | .polyD => Sys2Proof.Machine.execPolyD s
  | .rot13 dir => Sys2Proof.Machine.execRot13 dir s
  | .transpE => Sys2Proof.Machine.execTranspE s
  | .transpD => Sys2Proof.Machine.execTranspD s
  | .fractE => Sys2Proof.Machine.execFractE s
  | .fractD => Sys2Proof.Machine.execFractD s
  | .pictoE => Sys2Proof.Machine.execPictoE s
  | .pictoD => Sys2Proof.Machine.execPictoD s
  | .hillE => Sys2Proof.Machine.execHillE s
  | .hillD => Sys2Proof.Machine.execHillD s
  | .railE => Sys2Proof.Machine.execRailE s
  | .railD => Sys2Proof.Machine.execRailD s
  | .multE => Sys2Proof.Machine.execMultE s
  | .multD => Sys2Proof.Machine.execMultD s
  | .pass dir => Sys2Proof.Machine.execPass dir s
  | .envPackA => Sys2Proof.Machine.execEnvPackA s
  | .envPackB => Sys2Proof.Machine.execEnvPackB s
  | .envUnpackA => Sys2Proof.Machine.execEnvUnpackA s
  | .envUnpackB => Sys2Proof.Machine.execEnvUnpackB s
  | .b64E => Sys2Proof.Machine.execB64E s
  | .b64D => Sys2Proof.Machine.execB64D s
  | .movb => Sys2Proof.Machine.execMovb s
  | .movt => Sys2Proof.Machine.execMovt s

end Sys2Proof.Machine
end

