-- ==== Sys2Proof/Machine/Transactions.lean ====
section
/-! DEFINITION. The transactions of the host and the platform (spec/20_memory.md R62 to R65, R70;
spec/10_state.md R26, R34, R39; spec/70_reset_and_hazards.md R380), and the macros built from them
(spec/30_encoding.md R98). -/

namespace Sys2Proof.Machine

/-- A length register's value: the number of elements now in its buffer (10_state.md R32). -/
def lenReg {α : Type} (b : List α) : Word := BitVec.ofNat 32 b.length

/-- `ReadReg(n)`: the readable registers of 10_state.md R26; CMD and every number above 0x13 read 0 (R27, R34). -/
def State.readReg (s : State) : Nat → Word
  | 0x00 => 0
  | 0x01 => s.status
  | 0x02 => s.p0
  | 0x03 => s.p1
  | 0x04 => s.p2
  | 0x05 => s.p3
  | 0x06 => s.pvHi
  | 0x07 => s.pvLo
  | 0x08 => s.rvHi
  | 0x09 => s.rvLo
  | 0x0A => lenReg s.mem.key
  | 0x0B => lenReg s.mem.iv
  | 0x0C => lenReg s.mem.din
  | 0x0D => lenReg s.mem.dout
  | 0x0E => lenReg s.mem.ptab
  | 0x0F => lenReg s.mem.tkey
  | 0x10 => lenReg s.mem.tin
  | 0x11 => lenReg s.mem.tout
  | 0x12 => s.ivctrHi
  | 0x13 => s.ivctrLo
  | _ => 0

/-- `x[n] <- v` for the RW registers; a write to an RO register or to a number above 0x13 has no effect (10_state.md
R26, R34). Number 0, CMD, is `writeCmd`. -/
def State.writeReg (s : State) (n : Nat) (v : Word) : State :=
  match n with
  | 0x02 => { s with p0 := v }
  | 0x03 => { s with p1 := v }
  | 0x04 => { s with p2 := v }
  | 0x05 => { s with p3 := v }
  | 0x06 => { s with pvHi := v }
  | 0x07 => { s with pvLo := v }
  | _ => s

/-- A write of w to CMD executes the command w encodes as one step (10_state.md R27, 20_memory.md R70); a word that
is no command is reported (60_exceptions.md R347). -/
def writeCmd (w : Word) (s : State) : Answer :=
  match decode w with
  | .ok i => exec i s
  | .error _ => raiseIllegal s

/-- `LoadBuf(S, v)` of a byte buffer: refused when v exceeds the capacity (20_memory.md R64). -/
def loadBytes (b : LoadByteBuf) (v : List Byte) (s : State) : Answer :=
  if s.cfg.byteCap b.buf < v.length then .refused .loadTooLong else .next (s.putBytes b.buf v)

/-- `LoadBuf(S, v)` of a cell buffer: refused when v exceeds the capacity (20_memory.md R64). -/
def loadCells (b : LoadCellBuf) (v : List Cell) (s : State) : Answer :=
  if s.cfg.cellCap b.buf < v.length then .refused .loadTooLong else .next (s.putCells b.buf v)

/-- The host receives the value a read returns; a read has no other effect (20_memory.md R63, R65, R69). -/
def State.answerRead (s : State) (r : Reply) : State := { s with lastRead := r }

/-- Reset of the engine: every item of 70_reset_and_hazards.md R381. The configuration (10_state.md R40), the input
port (R39) and the host's own bookkeeping are not engine state and stay (log entry 9). -/
def State.resetEngine (s : State) : State :=
  { State.reset with
    cfg := s.cfg, timeMs := s.timeMs, timeDraws := s.timeDraws, pending := s.pending, lastRead := s.lastRead }

/-- One transaction, indivisible (20_memory.md R62, R69). -/
def perform (t : Transaction) (s : State) : Answer :=
  match t with
  | .writeReg n v => if n = 0 then writeCmd v s else .next (s.writeReg n v)
  | .readReg n => .next (s.answerRead (.word (s.readReg n)))
  | .loadBytes b v => loadBytes b v s
  | .loadCells b v => loadCells b v s
  | .readBytes b => .next (s.answerRead (.bytes (s.mem.bytes b)))
  | .readCells b => .next (s.answerRead (.cells (s.mem.cells b)))
  | .reset => .next s.resetEngine
  | .time t => .next { s with timeMs := .driven t }
  | .timeFree => .next { s with timeMs := .undriven }

/-- The step: the oldest pending transaction is taken and performed. With none pending "the engine has no step of its
own and nothing in it changes" (20_memory.md R70), so the state stays (log entry 4). -/
def performNext (s : State) : Answer :=
  match s.pending with
  | [] => .next s
  | t :: rest => perform t { s with pending := rest }

/-- The command write of a command (30_encoding.md R97: `MNEMONIC` alone stands for `WriteReg(0x00, word)`). -/
def command (i : Instr) : Transaction := .writeReg 0 (encode i)

/-- A transaction that executes a command (20_memory.md R70). -/
def isCommandWrite : Transaction → Bool
  | .writeReg n _ => n == 0
  | _ => false

/-- A host sequence that stops after a command whose STATUS is not OK (30_encoding.md R98: "After every command that
can fail the host reads STATUS and, if it is not OK, stops the macro"). -/
def runMacro : List Transaction → State → Answer
  | [], s => .next s
  | t :: ts, s =>
    match perform t s with
    | .next s' => if isCommandWrite t && s'.status != 0 then .next s' else runMacro ts s'
    | .fault f => .fault f
    | .refused r => .refused r

/-- ENCRYPT_A pw, m (30_encoding.md R98): the text is left in DOUT. -/
def encryptA (pw m : List Byte) : List Transaction :=
  [.loadBytes .din pw, command .deriveKeyA, command .genIvA, .loadBytes .din m, command (.aCtr 0), command .movb,
   command .envPackA, command .movb, command .b64E, .readBytes .dout]

/-- DECRYPT_A pw, t (30_encoding.md R98): the plaintext bytes are left in DOUT. -/
def decryptA (pw t : List Byte) : List Transaction :=
  [.loadBytes .din pw, command .deriveKeyA, .loadBytes .din t, command .b64D, command .movb, command .envUnpackA,
   command .movb, command (.aCtr 0), .readBytes .dout]

/-- ENCRYPT_B pw, m (30_encoding.md R98). -/
def encryptB (pw m : List Byte) : List Transaction :=
  [.loadBytes .din pw, command .deriveKeyB, command .genIvB, .loadBytes .din m, command .bCbcE, command .movb,
   command .envPackB, command .movb, command .b64E, .readBytes .dout]

/-- DECRYPT_B pw, t (30_encoding.md R98). -/
def decryptB (pw t : List Byte) : List Transaction :=
  [.loadBytes .din pw, command .deriveKeyB, .loadBytes .din t, command .b64D, command .movb, command .envUnpackB,
   command .movb, command .bCbcD, .readBytes .dout]

end Sys2Proof.Machine
end

