-- ==== Sys2Proof/Machine/Step.lean ====
section
/-! DEFINITION. The one step of the machine, and how a command word is placed so that the next step runs it. -/

namespace Sys2Proof.Machine

/-- One step: the oldest pending transaction is performed (spec/20_memory.md R62, R70). -/
def step (s : State) : Host.Outcome State Fault Refusal := performNext s

/-- The table word w placed as the next transaction, the write of w to CMD (spec/10_state.md R27; log entry 4). -/
def State.withFetchWord (s : State) (nbits w : Nat) : State :=
  { s with pending := .writeReg 0 (BitVec.ofNat 32 (w % 2 ^ nbits)) :: s.pending }

end Sys2Proof.Machine
end

