-- ==== Sys2Proof/Safety.lean ====
section
/-! DEFINITION. What counts as a good state and a good run, in the terms the statements use: the invariant, the table of
operands and destinations (spec/10_state.md R38), the order of tests (spec/60_exceptions.md R348), and runs of
several commands or transactions. -/

namespace Sys2Proof.Machine

/-- STATUS holds one of the codes 0 to 10, bits 31:5 zero (10_state.md R28; 60_exceptions.md R341: "Every value not
listed (11..31) is never produced"). -/
def State.statusLegal (s : State) : Prop := s.status.toNat ≤ 10

/-- The invariant of the machine: the parameters meet their constraints (93_implementation_defined.md 1.1), no
buffer exceeds its capacity (10_state.md R32) and STATUS holds a code of 60_exceptions.md R341. -/
def State.Inv (s : State) : Prop :=
  s.cfg.wellFormed = true ∧ s.mem.wf s.cfg = true ∧ s.statusLegal

/-- A piece of engine state a command may read or write (10_state.md R38). -/
inductive Item
  | p0 | p1 | p2 | p3 | pv | rv | ivctr
  | bytes (b : ByteBuf)
  | cells (b : CellBuf)
  deriving DecidableEq, Repr

/-- Two states hold the same value of an item; of a buffer, the same element at every index. -/
def sameItem (x : Item) (s t : State) : Prop :=
  match x with
  | .p0 => s.p0 = t.p0
  | .p1 => s.p1 = t.p1
  | .p2 => s.p2 = t.p2
  | .p3 => s.p3 = t.p3
  | .pv => s.pvHi = t.pvHi ∧ s.pvLo = t.pvLo
  | .rv => s.rvHi = t.rvHi ∧ s.rvLo = t.rvLo
  | .ivctr => s.ivctrHi = t.ivctrHi ∧ s.ivctrLo = t.ivctrLo
  | .bytes b => ∀ i, s.mem.byteAt b i = t.mem.byteAt b i
  | .cells b => ∀ i, s.mem.cellAt b i = t.mem.cellAt b i

/-- The column "reads" of 10_state.md R38, TIME_MS apart (`readsTime`). -/
def readsOf : Instr → List Item
  | .gfmul => [.p0, .p1]
  | .bitperm => [.p0, .pv, .bytes .ptab]
  | .deriveKeyA => [.bytes .din]
  | .deriveKeyB => [.bytes .din]
  | .genIvA => [.ivctr]
  | .genIvB => [.ivctr]
  | .aKeyexp => [.bytes .key]
  | .aBlock => [.bytes .key, .bytes .din]
  | .aCtr _ => [.bytes .key, .bytes .iv, .bytes .din]
  | .bKeysched => [.bytes .key]
  | .bBlockE => [.bytes .key, .bytes .din]
  | .bBlockD => [.bytes .key, .bytes .din]
  | .bCbcE => [.bytes .key, .bytes .iv, .bytes .din]
  | .bCbcD => [.bytes .key, .bytes .iv, .bytes .din]
  | .shiftE => [.p0, .cells .tin]
  | .shiftD => [.p0, .cells .tin]
  | .polyE => [.cells .tkey, .cells .tin]
  | .polyD => [.cells .tkey, .cells .tin]
  | .rot13 _ => [.cells .tin]
  | .transpE => [.cells .tkey, .cells .tin]
  | .transpD => [.cells .tkey, .cells .tin]
  | .fractE => [.cells .tin]
  | .fractD => [.cells .tin]
  | .pictoE => [.cells .tin]
  | .pictoD => [.cells .tin]
  | .hillE => [.p0, .p1, .p2, .p3, .cells .tin]
  | .hillD => [.p0, .p1, .p2, .p3, .cells .tin]
  | .railE => [.p0, .cells .tin]
  | .railD => [.p0, .cells .tin]
  | .multE => [.p0, .cells .tin]
  | .multD => [.p0, .cells .tin]
  | .pass _ => [.cells .tin]
  | .envPackA => [.bytes .iv, .bytes .din]
  | .envPackB => [.bytes .iv, .bytes .din]
  | .envUnpackA => [.bytes .din]
  | .envUnpackB => [.bytes .din]
  | .b64E => [.bytes .din]
  | .b64D => [.bytes .din]
  | .movb => [.bytes .dout]
  | .movt => [.cells .tout]

/-- The commands that sample TIME_MS (10_state.md R38, R39). -/
def readsTime : Instr → Bool
  | .genIvA => true
  | .genIvB => true
  | _ => false

/-- The column "writes on success" of 10_state.md R38 (besides STATUS). -/
def writesOf : Instr → List Item
  | .gfmul => [.rv]
  | .bitperm => [.rv]
  | .deriveKeyA => [.bytes .key]
  | .deriveKeyB => [.bytes .key]
  | .genIvA => [.bytes .iv, .ivctr]
  | .genIvB => [.bytes .iv, .ivctr]
  | .aKeyexp => [.bytes .dout]
  | .aBlock => [.bytes .dout]
  | .aCtr _ => [.bytes .dout]
  | .bKeysched => [.bytes .dout]
  | .bBlockE => [.bytes .dout]
  | .bBlockD => [.bytes .dout]
  | .bCbcE => [.bytes .dout]
  | .bCbcD => [.bytes .dout]
  | .shiftE => [.cells .tout]
  | .shiftD => [.cells .tout]
  | .polyE => [.cells .tout]
  | .polyD => [.cells .tout]
  | .rot13 _ => [.cells .tout]
  | .transpE => [.cells .tout]
  | .transpD => [.cells .tout]
  | .fractE => [.cells .tout]
  | .fractD => [.cells .tout]
  | .pictoE => [.cells .tout]
  | .pictoD => [.cells .tout]
  | .hillE => [.cells .tout]
  | .hillD => [.cells .tout]
  | .railE => [.cells .tout]
  | .railD => [.cells .tout]
  | .multE => [.cells .tout]
  | .multD => [.cells .tout]
  | .pass _ => [.cells .tout]
  | .envPackA => [.bytes .dout]
  | .envPackB => [.bytes .dout]
  | .envUnpackA => [.bytes .iv, .bytes .dout]
  | .envUnpackB => [.bytes .iv, .bytes .dout]
  | .b64E => [.bytes .dout]
  | .b64D => [.bytes .dout]
  | .movb => [.bytes .din]
  | .movt => [.cells .tin]

/-- The commands that can never fail (60_exceptions.md R351). -/
def neverFails : Instr → Bool
  | .gfmul => true
  | .bitperm => false
  | .deriveKeyA => true
  | .deriveKeyB => true
  | .genIvA => true
  | .genIvB => true
  | .aKeyexp => false
  | .aBlock => false
  | .aCtr _ => false
  | .bKeysched => false
  | .bBlockE => false
  | .bBlockD => false
  | .bCbcE => false
  | .bCbcD => false
  | .shiftE => true
  | .shiftD => true
  | .polyE => false
  | .polyD => false
  | .rot13 _ => true
  | .transpE => false
  | .transpD => false
  | .fractE => false
  | .fractD => true
  | .pictoE => true
  | .pictoD => true
  | .hillE => false
  | .hillD => false
  | .railE => true
  | .railD => true
  | .multE => true
  | .multD => false
  | .pass _ => true
  | .envPackA => false
  | .envPackB => false
  | .envUnpackA => false
  | .envUnpackB => false
  | .b64E => false
  | .b64D => false
  | .movb => true
  | .movt => true

/-- The column "emptied on failure" of 10_state.md R38: the destination that a failure of the command would empty, none
where the column says "(cannot fail)". The text commands that have a destination here and never fail are named by
60_exceptions.md R351 (`neverFails`). -/
def failDest : Instr → Option Dest
  | .gfmul => none
  | .bitperm => some .rv
  | .deriveKeyA => none
  | .deriveKeyB => none
  | .genIvA => none
  | .genIvB => none
  | .aKeyexp => some .dout
  | .aBlock => some .dout
  | .aCtr _ => some .dout
  | .bKeysched => some .dout
  | .bBlockE => some .dout
  | .bBlockD => some .dout
  | .bCbcE => some .dout
  | .bCbcD => some .dout
  | .shiftE => some .tout
  | .shiftD => some .tout
  | .polyE => some .tout
  | .polyD => some .tout
  | .rot13 _ => some .tout
  | .transpE => some .tout
  | .transpD => some .tout
  | .fractE => some .tout
  | .fractD => some .tout
  | .pictoE => some .tout
  | .pictoD => some .tout
  | .hillE => some .tout
  | .hillD => some .tout
  | .railE => some .tout
  | .railD => some .tout
  | .multE => some .tout
  | .multD => some .tout
  | .pass _ => some .tout
  | .envPackA => some .dout
  | .envPackB => some .dout
  | .envUnpackA => some .dout
  | .envUnpackB => some .dout
  | .b64E => some .dout
  | .b64D => some .dout
  | .movb => none
  | .movt => none

/-- The state after a failure: STATUS holds the code, the destination is emptied, nothing else differs
(60_exceptions.md R346), written out field by field. -/
def failedState (d : Dest) (code : Word) (s : State) : State :=
  match d with
  | .rv => { s with rvHi := 0, rvLo := 0, status := code }
  | .dout => { s with mem := { s.mem with dout := [] }, status := code }
  | .tout => { s with mem := { s.mem with tout := [] }, status := code }

/-- The number of the code a command reports: the first test that fails, in the order of 60_exceptions.md R348 and
the causes of R341; 0 when none fails. -/
def verdict (i : Instr) (s : State) : Word :=
  match i with
  | .bitperm =>
    if s.p0.toNat < 1 ∨ 64 < s.p0.toNat then 8
    else if s.mem.ptab.any (fun e => decide (e.toNat < 1 ∨ s.p0.toNat < e.toNat)) = true then 8 else 0
  | .aKeyexp => if s.mem.key.length ≠ 16 then 1 else 0
  | .aBlock => if s.mem.key.length ≠ 16 then 1 else if s.mem.din.length ≠ 16 then 8 else 0
  | .aCtr _ => if s.mem.key.length ≠ 16 then 1 else if s.mem.iv.length ≠ 16 then 2 else 0
  | .bKeysched => if s.mem.key.length ≠ 8 then 1 else 0
  | .bBlockE => if s.mem.key.length ≠ 8 then 1 else if s.mem.din.length ≠ 8 then 8 else 0
  | .bBlockD => if s.mem.key.length ≠ 8 then 1 else if s.mem.din.length ≠ 8 then 8 else 0
  | .bCbcE =>
    if s.mem.key.length ≠ 8 then 1 else if s.mem.iv.length ≠ 8 then 2
    else if s.cfg.bufCap < s.mem.din.length + (8 - s.mem.din.length % 8) then 9 else 0
  | .bCbcD =>
    if s.mem.key.length ≠ 8 then 1 else if s.mem.iv.length ≠ 8 then 2
    else if s.mem.din.length % 8 ≠ 0 then 5
    else if cbcDecB (keyschedB s.mem.key) s.mem.iv s.mem.din = none then 6 else 0
  | .polyE => if s.mem.tkey = [] ∨ s.mem.tkey.any (fun c => !islet c) = true then 8 else 0
  | .polyD => if s.mem.tkey = [] ∨ s.mem.tkey.any (fun c => !islet c) = true then 8 else 0
  | .transpE =>
    if s.mem.tkey = [] then 8
    else if s.cfg.bufCap < ceilDiv (stripSpaces s.mem.tin).length s.mem.tkey.length * s.mem.tkey.length then 9 else 0
  | .transpD => if s.mem.tkey = [] then 8 else 0
  | .fractE => if s.cfg.bufCap < s.mem.tin.length + letterCount s.mem.tin then 9 else 0
  | .hillE => if s.cfg.bufCap < letterCount s.mem.tin + letterCount s.mem.tin % 2 then 9 else 0
  | .hillD =>
    if ¬ Nat.Coprime (det26 s.hillMatrix) 26 then 7
    else if s.cfg.bufCap < letterCount s.mem.tin + letterCount s.mem.tin % 2 then 9 else 0
  | .multD => if ¬ Nat.Coprime (param26 s.p0) 26 then 7 else 0
  | .envPackA =>
    if s.mem.iv.length ≠ 16 then 2 else if s.cfg.bufCap < 16 + s.mem.din.length then 9 else 0
  | .envPackB =>
    if s.mem.iv.length ≠ 8 then 2 else if s.cfg.bufCap < 8 + s.mem.din.length then 9 else 0
  | .envUnpackA => if s.mem.din.length < 16 then 4 else 0
  | .envUnpackB => if s.mem.din.length < 8 then 4 else 0
  | .b64E => if s.cfg.bufCap < 4 * ((s.mem.din.length + 2) / 3) then 9 else 0
  | .b64D => if b64Dec s.mem.din = none then 3 else 0
  | .gfmul => 0
  | .deriveKeyA => 0
  | .deriveKeyB => 0
  | .genIvA => 0
  | .genIvB => 0
  | .shiftE => 0
  | .shiftD => 0
  | .rot13 _ => 0
  | .fractD => 0
  | .pictoE => 0
  | .pictoD => 0
  | .railE => 0
  | .railD => 0
  | .multE => 0
  | .pass _ => 0
  | .movb => 0
  | .movt => 0

/-- The case-preserving letter map by f on indices 0 to 25: an upper-case letter to an upper-case letter, a lower-case
letter to a lower-case letter, any other cell unchanged (00_scope.md R13, 44_classical_1.md R232). -/
def letterMap (f : Nat → Nat) (c : Cell) : Cell :=
  if 0x41 ≤ c.toNat ∧ c.toNat ≤ 0x5A then BitVec.ofNat 32 (0x41 + f (c.toNat - 0x41) % 26)
  else if 0x61 ≤ c.toNat ∧ c.toNat ≤ 0x7A then BitVec.ofNat 32 (0x61 + f (c.toNat - 0x61) % 26)
  else c

/-- Block j of n bytes of a byte sequence, `b[n*j .. n*j+n)` (00_scope.md R10). -/
def blockAt (n : Nat) (b : List Byte) (j : Nat) : List Byte := (b.drop (n * j)).take n

/-- The determinant of HILL's matrix over the signed register values, before any reduction (45_classical_2.md R276,
R277). -/
def hillDet (s : State) : Int := s.p0.toInt * s.p3.toInt - s.p1.toInt * s.p2.toInt

/-- Several commands one after another, with nothing between them; a failing command does not stop the next
(30_encoding.md R96, 60_exceptions.md R349). -/
def runCommands : List Instr → State → Answer
  | [], s => .next s
  | i :: is, s =>
    match exec i s with
    | .next t => runCommands is t
    | .fault f => .fault f
    | .refused r => .refused r

/-- Several transactions one after another (20_memory.md R62). -/
def performAll : List Transaction → State → Answer
  | [], s => .next s
  | x :: xs, s =>
    match perform x s with
    | .next t => performAll xs t
    | .fault f => .fault f
    | .refused r => .refused r

/-- A transaction that executes a GEN_IV of either size (41_derivation.md R149, R150). -/
def isGenIv : Transaction → Bool
  | .writeReg n w =>
    n == 0 && (match decode w with
      | .ok i => readsTime i
      | .error _ => false)
  | _ => false

/-- How many GEN_IV commands a sequence of transactions holds. -/
def countGenIv (ts : List Transaction) : Nat := ts.countP isGenIv

/-- No Reset among the transactions. -/
def noReset (ts : List Transaction) : Bool := ts.all (· != .reset)

end Sys2Proof.Machine
end

