-- ==== Sys2Proof/Certificates/Slice0/Obligations.lean ====
section
/-! DEFINITION. The statements about the machine, from the numbered rules of spec/. -/

open Sys2Proof Sys2Proof.Machine

/-! Utilities (spec/40_utilities.md) -/

/-- R123: GFMUL multiplies the low bytes of P0 and P1 into RV and changes nothing else but STATUS. -/
def Obligations.GfmulMultipliesLowBytes : Prop :=
  encode .gfmul = 0x00000001#32 ∧
  ∀ s : State, exec .gfmul s =
    .next { s with
      rvHi := 0
      rvLo := (gmul (s.p0.extractLsb' 0 8) (s.p1.extractLsb' 0 8)).zeroExtend 32
      status := 0 }

/-- R122: gmul is the multiplication of a field with 256 elements whose addition is XOR. The rule's laws: commutative, 1
neutral, 0 absorbing, distributive over XOR, doubling by shift and reduction, exactly one inverse of every nonzero byte;
and associativity, which "multiplication in the field of 256 elements" says. -/
def Obligations.GmulIsFieldMultiplication : Prop :=
  ∀ a b c : Byte,
    gmul a b = gmul b a ∧ gmul (gmul a b) c = gmul a (gmul b c) ∧ gmul a 1 = a ∧ gmul a 0 = 0 ∧
    gmul a (b ^^^ c) = gmul a b ^^^ gmul a c ∧
    gmul 2 a = (if a.toNat < 0x80 then a <<< 1 else (a <<< 1) ^^^ 0x1B) ∧ gmul 3 a = gmul 2 a ^^^ a ∧
    (a ≠ 0 → ∃! d, gmul a d = 1)

/-- R126 with R124: with a width in 1..64 and every table entry in 1..width, output position i of BITPERM is input
position T[i], right-aligned in RV, and nothing else but STATUS changes; a width or an entry outside its range is
ERR_CONTRACT with RV = 0. A table holds at most PTAB_CAP = 64 entries. -/
def Obligations.BitpermSelectsInputBits : Prop :=
  encode .bitperm = 0x00000002#32 ∧
  ∀ s : State,
    (1 ≤ s.p0.toNat → s.p0.toNat ≤ 64 → s.mem.ptab.length ≤ 64 →
      (∀ e ∈ s.mem.ptab, 1 ≤ e.toNat ∧ e.toNat ≤ s.p0.toNat) →
      ∃ t, exec .bitperm s = .next t ∧ t = { s with rvHi := t.rvHi, rvLo := t.rvLo, status := 0 } ∧
        (∀ i, i < s.mem.ptab.length →
          t.rv.getLsbD (s.mem.ptab.length - 1 - i) = s.pv.getLsbD (s.p0.toNat - (s.mem.ptab.getD i 0).toNat)) ∧
        ∀ j, s.mem.ptab.length ≤ j → t.rv.getLsbD j = false) ∧
    ((s.p0.toNat < 1 ∨ 64 < s.p0.toNat ∨ ∃ e ∈ s.mem.ptab, e.toNat < 1 ∨ s.p0.toNat < e.toNat) →
      exec .bitperm s = .next (failedState .rv 8 s))

/-! Derivation (spec/41_derivation.md) -/

/-- R141, R142: DERIVE_KEY fills KEY with 16 or 8 bytes of the cyclic repetition of DIN, zeros for the empty DIN, and
changes nothing else but STATUS. -/
def Obligations.DeriveKeyRepeatsPassphrase : Prop :=
  encode .deriveKeyA = 0x00000008#32 ∧ encode .deriveKeyB = 0x00000208#32 ∧
  ∀ s : State,
    (∃ k : List Byte, exec .deriveKeyA s = .next { s with mem := { s.mem with key := k }, status := 0 } ∧
      k.length = 16 ∧
      ∀ i, i < 16 → k[i]? = if s.mem.din = [] then some 0 else s.mem.din[i % s.mem.din.length]?) ∧
    (∃ k : List Byte, exec .deriveKeyB s = .next { s with mem := { s.mem with key := k }, status := 0 } ∧
      k.length = 8 ∧
      ∀ i, i < 8 → k[i]? = if s.mem.din = [] then some 0 else s.mem.din[i % s.mem.din.length]?)

/-- R149, R150: GEN_IV writes IVMIX of the sampled time and the counter as it stood, advances IVCTR modulo 2^64 and
changes no other engine state but STATUS. It holds for every value of the sample and for either choice of IVMIX;
`d`, the model's own count of samples, is left open (log entries 1 and 2). -/
def Obligations.GenIvUsesCounterThenAdvances : Prop :=
  encode .genIvA = 0x00000009#32 ∧ encode .genIvB = 0x00000209#32 ∧
  ∀ s : State,
    (∃ d, exec .genIvA s =
      .next { s with
        mem := { s.mem with iv := ivMix16 s.cfg.ivmix s.sampleTime s.ivctr }
        ivctrHi := (s.ivctr + 1).extractLsb' 32 32
        ivctrLo := (s.ivctr + 1).extractLsb' 0 32
        timeDraws := d
        status := 0 }) ∧
    (∃ d, exec .genIvB s =
      .next { s with
        mem := { s.mem with iv := ivMix8 s.cfg.ivmix s.sampleTime s.ivctr }
        ivctrHi := (s.ivctr + 1).extractLsb' 32 32
        ivctrLo := (s.ivctr + 1).extractLsb' 0 32
        timeDraws := d
        status := 0 })

/-- R147 and R148: whichever choice of the parameter the configuration makes, IVMIX has IVMIX_LEN and IVMIX_INJ. The
two choices are the model's (log entry 1). -/
def Obligations.IvMixHasLengthAndInjectivity : Prop :=
  ∀ (m : IvMix) (t : DWord),
    (∀ c, (ivMix8 m t c).length = 8 ∧ (ivMix16 m t c).length = 16) ∧
    Function.Injective (ivMix8 m t) ∧ Function.Injective (ivMix16 m t)

/-- R33 and R151 (a): over any transactions without a Reset, IVCTR advances by exactly the number of GEN_IV commands
among them, modulo 2^64. -/
def Obligations.IvctrCountsGenIvCommands : Prop :=
  ∀ (ts : List Transaction) (s t : State), noReset ts = true → performAll ts s = .next t →
    t.ivctr = s.ivctr + BitVec.ofNat 64 (countGenIv ts)

/-- R151 (b): two GEN_IV commands of the same size that sample the same TIME_MS, with no Reset and fewer than
2^64 − 1 further GEN_IV commands between them, produce different IVs. The rule's words say "fewer than 2^64"; with
exactly 2^64 − 1 between them the counter has come round once, so the bound here is one less (log entry 12). -/
def Obligations.GenIvNeverRepeatsWithinMillisecond : Prop :=
  ∀ (ts : List Transaction) (s t s' t' : State), noReset ts = true → countGenIv ts < 2 ^ 64 - 1 →
    (exec .genIvA s = .next t → performAll ts t = .next s' → s'.sampleTime = s.sampleTime →
      exec .genIvA s' = .next t' → t.mem.iv ≠ t'.mem.iv) ∧
    (exec .genIvB s = .next t → performAll ts t = .next s' → s'.sampleTime = s.sampleTime →
      exec .genIvB s' = .next t' → t.mem.iv ≠ t'.mem.iv)

/-! Cipher A (spec/42_cipher_a_spn.md) -/

/-- R163: the expanded key begins with the key, has 176 bytes, and each further byte is the byte 16 back XOR the
transform of the previous word: rotate, substitute, constant-XOR at a multiple of 16, else the identity. -/
def Obligations.KeyExpansionFollowsRecurrence : Prop :=
  ∀ key : List Byte, key.length = 16 →
    (keyexpA key).length = 176 ∧ (keyexpA key).take 16 = key ∧
    (∀ i, 16 ≤ i → i < 176 →
      (keyexpA key).getD i 0 = (keyexpA key).getD (i - 16) 0 ^^^
        (if i % 16 < 4 then
          sboxA ((keyexpA key).getD (i - i % 4 - 4 + (i % 4 + 1) % 4) 0) ^^^ (if i % 4 = 0 then rcon (i / 16) else 0)
        else (keyexpA key).getD (i - 4) 0)) ∧
    ∀ r, r ≤ 10 → roundKeyA (keyexpA key) r = blockAt 16 (keyexpA key) r

/-- R175, R176: A_KEYEXP and A_BLOCK on a 16-byte key (and a 16-byte block) write DOUT and change nothing else but
STATUS; the key's length is tested first, then the block's. -/
def Obligations.KeyexpAndBlockOfCipherA : Prop :=
  encode .aKeyexp = 0x00000010#32 ∧ encode .aBlock = 0x00000011#32 ∧
  ∀ s : State,
    (s.mem.key.length = 16 →
      exec .aKeyexp s = .next { s with mem := { s.mem with dout := keyexpA s.mem.key }, status := 0 }) ∧
    (s.mem.key.length = 16 → s.mem.din.length = 16 →
      exec .aBlock s =
        .next { s with mem := { s.mem with dout := encblockA (keyexpA s.mem.key) s.mem.din }, status := 0 }) ∧
    (s.mem.key.length ≠ 16 →
      exec .aKeyexp s = .next (failedState .dout 1 s) ∧ exec .aBlock s = .next (failedState .dout 1 s)) ∧
    (s.mem.key.length = 16 → s.mem.din.length ≠ 16 → exec .aBlock s = .next (failedState .dout 8 s))

/-- R177 with R172 to R174: A_CTR, whatever DIR, XORs byte i of DIN with byte i mod 16 of the encryption of the counter
be(IV) + i div 16 modulo 2^128; the output has the input's length, IV keeps its value, nothing else but STATUS
changes; the key's length is tested before the IV's. -/
def Obligations.CounterModeXorsKeystream : Prop :=
  encode (.aCtr 0) = 0x00000012#32 ∧ encode (.aCtr 1) = 0x00000112#32 ∧
  ∀ (dir : BitVec 1) (s : State),
    (s.mem.key.length = 16 → s.mem.iv.length = 16 →
      ∃ out : List Byte, exec (.aCtr dir) s = .next { s with mem := { s.mem with dout := out }, status := 0 } ∧
        out.length = s.mem.din.length ∧
        ∀ i, i < s.mem.din.length →
          out.getD i 0 = s.mem.din.getD i 0 ^^^
            (encblockA (keyexpA s.mem.key) (unbe 16 ((be s.mem.iv + i / 16) % 2 ^ 128))).getD (i % 16) 0) ∧
    (s.mem.key.length ≠ 16 → exec (.aCtr dir) s = .next (failedState .dout 1 s)) ∧
    (s.mem.key.length = 16 → s.mem.iv.length ≠ 16 → exec (.aCtr dir) s = .next (failedState .dout 2 s))

/-! Cipher B (spec/43_cipher_b_feistel.md) -/

/-- R212, R213, R214: on an 8-byte key (and an 8-byte block) B_KEYSCHED and B_BLOCK write DOUT and change nothing else
but STATUS; the key's length is tested first, then the block's. -/
def Obligations.KeyschedAndBlockOfCipherB : Prop :=
  encode .bKeysched = 0x00000018#32 ∧ encode .bBlockE = 0x00000019#32 ∧ encode .bBlockD = 0x00000119#32 ∧
  ∀ s : State,
    (s.mem.key.length = 8 →
      (keyschedB s.mem.key).length = 16 ∧
      exec .bKeysched s =
        .next { s with
          mem := { s.mem with dout := (keyschedB s.mem.key).flatMap fun k => unbe 6 k.toNat }
          status := 0 }) ∧
    (s.mem.key.length = 8 → s.mem.din.length = 8 →
      exec .bBlockE s =
        .next { s with mem := { s.mem with dout := blockB (keyschedB s.mem.key) s.mem.din .enc }, status := 0 } ∧
      exec .bBlockD s =
        .next { s with mem := { s.mem with dout := blockB (keyschedB s.mem.key) s.mem.din .dec }, status := 0 }) ∧
    (s.mem.key.length ≠ 8 →
      exec .bKeysched s = .next (failedState .dout 1 s) ∧ exec .bBlockE s = .next (failedState .dout 1 s) ∧
      exec .bBlockD s = .next (failedState .dout 1 s)) ∧
    (s.mem.key.length = 8 → s.mem.din.length ≠ 8 →
      exec .bBlockE s = .next (failedState .dout 8 s) ∧ exec .bBlockD s = .next (failedState .dout 8 s))

/-- R193: PC1 names no multiple of 8, so two keys that differ only in the least significant bits of their bytes give
identical subkeys and identical results. -/
def Obligations.KeyLowBitsDoNotEnterSchedule : Prop :=
  (∀ p ∈ tablePC1, p % 8 ≠ 0) ∧
  ∀ k k' : List Byte, k.length = 8 → k'.length = 8 →
    (∀ i, i < 8 → (k.getD i 0) >>> 1 = (k'.getD i 0) >>> 1) →
      keyschedB k = keyschedB k' ∧ ∀ b d, blockB (keyschedB k) b d = blockB (keyschedB k') b d

/-- R205: the two directions of the block transform are inverse on 8-byte blocks, for every sequence of subkeys. -/
def Obligations.BlockDirectionsAreInverse : Prop :=
  ∀ (sk : List (BitVec 48)) (b : List Byte), b.length = 8 →
    blockB sk (blockB sk b .enc) .dec = b ∧ blockB sk (blockB sk b .dec) .enc = b

/-- R206, R207: on a whole number of blocks, pad removal succeeds exactly on a message followed by v bytes of value v
with v in 1..8, and gives that message; padding makes such a sequence, of a multiple of 8 bytes. -/
def Obligations.UnpadRemovesExactlyThePad : Prop :=
  (∀ q m : List Byte, q.length % 8 = 0 →
    (unpad7 q = some m ↔ ∃ v, 1 ≤ v ∧ v ≤ 8 ∧ q = m ++ List.replicate v (BitVec.ofNat 8 v))) ∧
  ∀ m : List Byte, unpad7 (pad7 m) = some m ∧ (pad7 m).length % 8 = 0 ∧ 8 ≤ (pad7 m).length

/-- R215 with R206, R208: B_CBC.E pads, and each ciphertext block is the encryption of the padded block XOR the previous
ciphertext block (the IV for the first); the tests stand in the order key, IV, capacity. -/
def Obligations.ChainedEncryptionChainsBlocks : Prop :=
  encode .bCbcE = 0x0000001A#32 ∧
  ∀ s : State,
    (s.mem.key.length = 8 → s.mem.iv.length = 8 →
      s.mem.din.length + (8 - s.mem.din.length % 8) ≤ s.cfg.bufCap →
      ∃ c : List Byte, exec .bCbcE s = .next { s with mem := { s.mem with dout := c }, status := 0 } ∧
        c.length = s.mem.din.length + (8 - s.mem.din.length % 8) ∧
        ∀ j, 8 * j < c.length →
          blockAt 8 c j =
            blockB (keyschedB s.mem.key)
              (xorb (blockAt 8 (pad7 s.mem.din) j) (if j = 0 then s.mem.iv else blockAt 8 c (j - 1))) .enc) ∧
    (s.mem.key.length ≠ 8 → exec .bCbcE s = .next (failedState .dout 1 s)) ∧
    (s.mem.key.length = 8 → s.mem.iv.length ≠ 8 → exec .bCbcE s = .next (failedState .dout 2 s)) ∧
    (s.mem.key.length = 8 → s.mem.iv.length = 8 →
      s.cfg.bufCap < s.mem.din.length + (8 - s.mem.din.length % 8) →
      exec .bCbcE s = .next (failedState .dout 9 s))

/-- R216 with R207, R209: B_CBC.D recovers q, each block of it the decryption of a ciphertext block XOR the previous
ciphertext block (the IV for the first), and writes q without its pad, or reports ERR_PAD; the tests stand in the
order key, IV, length. -/
def Obligations.ChainedDecryptionStripsPad : Prop :=
  encode .bCbcD = 0x0000011A#32 ∧
  ∀ s : State,
    (∀ q : List Byte, s.mem.key.length = 8 → s.mem.iv.length = 8 → s.mem.din.length % 8 = 0 →
      q.length = s.mem.din.length →
      (∀ j, 8 * j < q.length →
        blockAt 8 q j =
          xorb (blockB (keyschedB s.mem.key) (blockAt 8 s.mem.din j) .dec)
            (if j = 0 then s.mem.iv else blockAt 8 s.mem.din (j - 1))) →
      (∀ m, unpad7 q = some m →
        exec .bCbcD s = .next { s with mem := { s.mem with dout := m }, status := 0 }) ∧
      (unpad7 q = none → exec .bCbcD s = .next (failedState .dout 6 s))) ∧
    (s.mem.key.length ≠ 8 → exec .bCbcD s = .next (failedState .dout 1 s)) ∧
    (s.mem.key.length = 8 → s.mem.iv.length ≠ 8 → exec .bCbcD s = .next (failedState .dout 2 s)) ∧
    (s.mem.key.length = 8 → s.mem.iv.length = 8 → s.mem.din.length % 8 ≠ 0 →
      exec .bCbcD s = .next (failedState .dout 5 s))

/-- R178 (a), R211 (a): with a 16-byte key and IV, A_CTR applied to its own output (moved by MOVB) returns the input;
with an 8-byte key and IV, B_CBC.D after B_CBC.E (and MOVB) returns the message. -/
def Obligations.CipherModesRoundTrip : Prop :=
  (∀ (dir dir' : BitVec 1) (s : State), s.mem.key.length = 16 → s.mem.iv.length = 16 →
    ∃ t, runCommands [.aCtr dir, .movb, .aCtr dir'] s = .next t ∧ t.mem.dout = s.mem.din ∧ t.status = 0) ∧
  ∀ s : State, s.mem.key.length = 8 → s.mem.iv.length = 8 →
    s.mem.din.length + (8 - s.mem.din.length % 8) ≤ s.cfg.bufCap →
    ∃ t, runCommands [.bCbcE, .movb, .bCbcD] s = .next t ∧ t.mem.dout = s.mem.din ∧ t.status = 0

/-- R170, R210: the printed known answers of the two single-block transforms. -/
def Obligations.SingleBlockKnownAnswers : Prop :=
  encblockA (keyexpA (List.replicate 16 0)) (List.replicate 16 0) =
    [0x66, 0xE9, 0x4B, 0xD4, 0xEF, 0x8A, 0x2C, 0x3B, 0x88, 0x4C, 0xFA, 0x59, 0xCA, 0x34, 0x2B, 0x2E] ∧
  encblockA (keyexpA [0x00, 0x01, 0x02, 0x03, 0x04, 0x05, 0x06, 0x07, 0x08, 0x09, 0x0A, 0x0B, 0x0C, 0x0D, 0x0E, 0x0F])
      (List.replicate 16 0) =
    [0xC6, 0xA1, 0x3B, 0x37, 0x87, 0x8F, 0x5B, 0x82, 0x6F, 0x4F, 0x81, 0x62, 0xA1, 0xC8, 0xD8, 0x79] ∧
  encblockA (keyexpA [0x2B, 0x7E, 0x15, 0x16, 0x28, 0xAE, 0xD2, 0xA6, 0xAB, 0xF7, 0x15, 0x88, 0x09, 0xCF, 0x4F, 0x3C])
      (List.replicate 16 0) =
    [0x7D, 0xF7, 0x6B, 0x0C, 0x1A, 0xB8, 0x99, 0xB3, 0x3E, 0x42, 0xF0, 0x47, 0xB9, 0x1B, 0x54, 0x6F] ∧
  encblockA (keyexpA [0x00, 0x01, 0x02, 0x03, 0x04, 0x05, 0x06, 0x07, 0x08, 0x09, 0x0A, 0x0B, 0x0C, 0x0D, 0x0E, 0x0F])
      [0x00, 0x11, 0x22, 0x33, 0x44, 0x55, 0x66, 0x77, 0x88, 0x99, 0xAA, 0xBB, 0xCC, 0xDD, 0xEE, 0xFF] =
    [0x69, 0xC4, 0xE0, 0xD8, 0x6A, 0x7B, 0x04, 0x30, 0xD8, 0xCD, 0xB7, 0x80, 0x70, 0xB4, 0xC5, 0x5A] ∧
  blockB (keyschedB [0x13, 0x34, 0x57, 0x79, 0x9B, 0xBC, 0xDF, 0xF1])
      [0x01, 0x23, 0x45, 0x67, 0x89, 0xAB, 0xCD, 0xEF] .enc =
    [0x85, 0xE8, 0x13, 0x54, 0x0F, 0x0A, 0xB4, 0x05] ∧
  blockB (keyschedB [0x01, 0x23, 0x45, 0x67, 0x89, 0xAB, 0xCD, 0xEF])
      [0x4E, 0x6F, 0x77, 0x20, 0x69, 0x73, 0x20, 0x74] .enc =
    [0x3F, 0xA4, 0x0E, 0x8A, 0x98, 0x4D, 0x48, 0x15] ∧
  blockB (keyschedB (List.replicate 8 0)) (List.replicate 8 0) .enc =
    [0x8C, 0xA6, 0x4D, 0xE9, 0xC1, 0xB1, 0x23, 0xA7] ∧
  blockB (keyschedB (List.replicate 8 0xFF)) (List.replicate 8 0xFF) .enc =
    [0x73, 0x59, 0xB2, 0x16, 0x3E, 0x4E, 0xDC, 0x58]

/-! The classical suite, part 1 (spec/44_classical_1.md) -/

/-- R233, R234: SHIFT rotates every letter by the signed P0 modulo 26, or back, keeps case and every other cell, and
changes nothing else but STATUS. -/
def Obligations.ShiftRotatesLetters : Prop :=
  encode .shiftE = 0x00000020#32 ∧ encode .shiftD = 0x00000120#32 ∧
  ∀ s : State,
    exec .shiftE s =
      .next { s with
        mem := { s.mem with tout := s.mem.tin.map (letterMap fun i => i + (s.p0.toInt % 26).toNat) }
        status := 0 } ∧
    exec .shiftD s =
      .next { s with
        mem := { s.mem with tout := s.mem.tin.map (letterMap fun i => i + (26 - (s.p0.toInt % 26).toNat)) }
        status := 0 }

/-- R242: ROT13, whatever DIR, rotates every letter by 13; twice returns the text; it equals SHIFT.E and SHIFT.D with
P0 = 13. -/
def Obligations.Rot13IsShiftByThirteen : Prop :=
  encode (.rot13 0) = 0x00000022#32 ∧ encode (.rot13 1) = 0x00000122#32 ∧
  ∀ (dir dir' : BitVec 1) (s : State),
    exec (.rot13 dir) s =
      .next { s with mem := { s.mem with tout := s.mem.tin.map (letterMap fun i => i + 13) }, status := 0 } ∧
    (∃ t, runCommands [.rot13 dir, .movt, .rot13 dir'] s = .next t ∧ t.mem.tout = s.mem.tin ∧ t.status = 0) ∧
    (s.p0 = 13 → exec .shiftE s = exec (.rot13 dir) s ∧ exec .shiftD s = exec (.rot13 dir) s)

/-- R235: for every text and every P0, SHIFT.D after SHIFT.E and SHIFT.E after SHIFT.D return the text. -/
def Obligations.ShiftDirectionsAreInverse : Prop :=
  ∀ s : State,
    (∃ t, runCommands [.shiftE, .movt, .shiftD] s = .next t ∧ t.mem.tout = s.mem.tin ∧ t.status = 0) ∧
    (∃ t, runCommands [.shiftD, .movt, .shiftE] s = .next t ∧ t.mem.tout = s.mem.tin ∧ t.status = 0)

/-- R238, R239 with R236, R237: with a key of letters, POLY shifts the text's n-th letter by (or back by) the key
letter n modulo the key's length, keeps every other cell and changes nothing else but STATUS; an empty key or a key
with a non-letter is ERR_CONTRACT. -/
def Obligations.PolyShiftsByRepeatingKey : Prop :=
  encode .polyE = 0x00000021#32 ∧ encode .polyD = 0x00000121#32 ∧
  ∀ s : State,
    (s.mem.tkey ≠ [] → (∀ c ∈ s.mem.tkey, islet c = true) →
      (∃ out : List Cell, exec .polyE s = .next { s with mem := { s.mem with tout := out }, status := 0 } ∧
        out.length = s.mem.tin.length ∧
        ∀ i, i < s.mem.tin.length →
          out.getD i 0 =
            letterMap (fun x => x +
              idx (s.mem.tkey.getD ((s.mem.tin.take i).countP islet % s.mem.tkey.length) 0)) (s.mem.tin.getD i 0)) ∧
      (∃ out : List Cell, exec .polyD s = .next { s with mem := { s.mem with tout := out }, status := 0 } ∧
        out.length = s.mem.tin.length ∧
        ∀ i, i < s.mem.tin.length →
          out.getD i 0 =
            letterMap (fun x => x + (26 -
              idx (s.mem.tkey.getD ((s.mem.tin.take i).countP islet % s.mem.tkey.length) 0)))
              (s.mem.tin.getD i 0))) ∧
    ((s.mem.tkey = [] ∨ ∃ c ∈ s.mem.tkey, islet c = false) →
      exec .polyE s = .next (failedState .tout 8 s) ∧ exec .polyD s = .next (failedState .tout 8 s))

/-- R240: with the same valid key, POLY.D after POLY.E and POLY.E after POLY.D return the text. -/
def Obligations.PolyDirectionsAreInverse : Prop :=
  ∀ s : State, s.mem.tkey ≠ [] → (∀ c ∈ s.mem.tkey, islet c = true) →
    (∃ t, runCommands [.polyE, .movt, .polyD] s = .next t ∧ t.mem.tout = s.mem.tin ∧ t.status = 0) ∧
    (∃ t, runCommands [.polyD, .movt, .polyE] s = .next t ∧ t.mem.tout = s.mem.tin ∧ t.status = 0)

/-- R244: the column order holds every column once, by ascending unsigned key cell, equal cells by ascending index. -/
def Obligations.ColumnOrderIsStableSort : Prop :=
  ∀ key : List Cell,
    (colorder key).Perm (List.range key.length) ∧
    (colorder key).Pairwise fun a b =>
      (key.getD a 0).toNat < (key.getD b 0).toNat ∨ (key.getD a 0 = key.getD b 0 ∧ a < b)

/-- R247 with R245: TRANSP.E writes the space-free text row by row under a key of m cells, fills the last row with
FILL_T and reads the columns in sorted order, R = ceil(L/m) cells each; an empty key is ERR_CONTRACT, tested before
the capacity. -/
def Obligations.TransposeReadsColumnsInKeyOrder : Prop :=
  encode .transpE = 0x00000023#32 ∧
  ∀ (s : State) (text : List Cell) (rows : Nat), text = s.mem.tin.filter (· != 0x20#32) →
    rows = (text.length + s.mem.tkey.length - 1) / s.mem.tkey.length →
    (s.mem.tkey ≠ [] → rows * s.mem.tkey.length ≤ s.cfg.bufCap →
      ∃ out : List Cell, exec .transpE s = .next { s with mem := { s.mem with tout := out }, status := 0 } ∧
        out.length = rows * s.mem.tkey.length ∧
        ∀ k r, k < s.mem.tkey.length → r < rows →
          out[k * rows + r]? =
            some (text.getD (r * s.mem.tkey.length + (colorder s.mem.tkey).getD k 0) s.cfg.fillT)) ∧
    (s.mem.tkey = [] → exec .transpE s = .next (failedState .tout 8 s)) ∧
    (s.mem.tkey ≠ [] → s.cfg.bufCap < rows * s.mem.tkey.length → exec .transpE s = .next (failedState .tout 9 s))

/-- R248 with R246: TRANSP.D fills the columns in sorted order, a missing cell being FILL_T, reads row-major and drops
every FILL_T cell, so the output is never longer than the input; an empty key is ERR_CONTRACT. -/
def Obligations.TransposeDecryptFillsColumns : Prop :=
  encode .transpD = 0x00000123#32 ∧
  ∀ (s : State) (rows : Nat), rows = (s.mem.tin.length + s.mem.tkey.length - 1) / s.mem.tkey.length →
    (s.mem.tkey ≠ [] →
      ∃ grid : List Cell, grid.length = rows * s.mem.tkey.length ∧
        (∀ k r, k < s.mem.tkey.length → r < rows →
          grid[r * s.mem.tkey.length + (colorder s.mem.tkey).getD k 0]? =
            some (s.mem.tin.getD (k * rows + r) s.cfg.fillT)) ∧
        (grid.filter (· != s.cfg.fillT)).length ≤ s.mem.tin.length ∧
        exec .transpD s =
          .next { s with mem := { s.mem with tout := grid.filter (· != s.cfg.fillT) }, status := 0 }) ∧
    (s.mem.tkey = [] → exec .transpD s = .next (failedState .tout 8 s))

/-- R249: TRANSP.D after TRANSP.E returns the text without its spaces and FILL_T cells; a text with neither comes back
exactly. -/
def Obligations.TransposeRoundTripDropsSpacesAndFiller : Prop :=
  ∀ s : State, s.mem.tkey ≠ [] →
    ((s.mem.tin.filter (· != 0x20#32)).length + s.mem.tkey.length - 1) / s.mem.tkey.length * s.mem.tkey.length ≤
      s.cfg.bufCap →
    ∃ t, runCommands [.transpE, .movt, .transpD] s = .next t ∧ t.status = 0 ∧
      t.mem.tout = s.mem.tin.filter (fun c => c != 0x20#32 && c != s.cfg.fillT) ∧
      ((∀ c ∈ s.mem.tin, c ≠ 0x20#32 ∧ c ≠ s.cfg.fillT) → t.mem.tout = s.mem.tin)

/-- R253, R254 with R251, R252: FRACT.E turns each letter into its row and column digits (J as I), keeps every other
cell, and fails only for capacity; FRACT.D turns two digits 1 to 5 into a letter and otherwise passes one cell. Nothing
else but STATUS changes. -/
def Obligations.FractionationUsesTheSquare : Prop :=
  encode .fractE = 0x00000024#32 ∧ encode .fractD = 0x00000124#32 ∧
  (∀ s : State,
    (s.mem.tin.length + s.mem.tin.countP islet ≤ s.cfg.bufCap →
      exec .fractE s =
        .next { s with
          mem := { s.mem with
            tout := s.mem.tin.flatMap fun c =>
              if islet c then
                [BitVec.ofNat 32 (0x31 + (if idx c < 9 then idx c else idx c - 1) / 5),
                 BitVec.ofNat 32 (0x31 + (if idx c < 9 then idx c else idx c - 1) % 5)]
              else [c] }
          status := 0 }) ∧
    (s.cfg.bufCap < s.mem.tin.length + s.mem.tin.countP islet → exec .fractE s = .next (failedState .tout 9 s)) ∧
    exec .fractD s = .next { s with mem := { s.mem with tout := fractDec s.mem.tin }, status := 0 } ∧
    (fractDec s.mem.tin).length ≤ s.mem.tin.length) ∧
  fractDec [] = [] ∧ (∀ c, fractDec [c] = [c]) ∧
  (∀ r q, r < 5 → q < 5 → ∀ rest,
    fractDec (BitVec.ofNat 32 (0x31 + r) :: BitVec.ofNat 32 (0x31 + q) :: rest) =
      BitVec.ofNat 32 (0x41 + (if 5 * r + q < 9 then 5 * r + q else 5 * r + q + 1)) :: fractDec rest) ∧
  ∀ c d rest,
    ¬ ((0x31 ≤ c.toNat ∧ c.toNat ≤ 0x35) ∧ (0x31 ≤ d.toNat ∧ d.toNat ≤ 0x35)) →
      fractDec (c :: d :: rest) = c :: fractDec (d :: rest)

/-- R255: FRACT.D after FRACT.E returns the text upper-cased with J replaced by I, provided the text has no digit in
'1'..'5'. -/
def Obligations.FractionationRoundTripFoldsCase : Prop :=
  ∀ s : State, (∀ c ∈ s.mem.tin, ¬ (0x31 ≤ c.toNat ∧ c.toNat ≤ 0x35)) →
    s.mem.tin.length + s.mem.tin.countP islet ≤ s.cfg.bufCap →
    ∃ t, runCommands [.fractE, .movt, .fractD] s = .next t ∧ t.status = 0 ∧
      t.mem.tout =
        s.mem.tin.map fun c =>
          if islet c then BitVec.ofNat 32 (0x41 + (if idx c = 9 then 8 else idx c)) else c

/-! The classical suite, part 2 (spec/45_classical_2.md) -/

/-- R272, R273, R296 with R271: with a legal symbol table, PICTO.E replaces each upper-case letter by its symbol,
PICTO.D each symbol by its upper-case letter, PASS copies the text; every other cell passes and nothing else but STATUS
changes. -/
def Obligations.PictogramsAndPassThrough : Prop :=
  encode .pictoE = 0x00000025#32 ∧ encode .pictoD = 0x00000125#32 ∧
  encode (.pass 0) = 0x00000029#32 ∧ encode (.pass 1) = 0x00000129#32 ∧
  ∀ (s : State) (dir : BitVec 1),
    exec (.pass dir) s = .next { s with mem := { s.mem with tout := s.mem.tin }, status := 0 } ∧
    (s.cfg.pictoWellFormed = true →
      (∃ out : List Cell, exec .pictoE s = .next { s with mem := { s.mem with tout := out }, status := 0 } ∧
        out.length = s.mem.tin.length ∧
        ∀ (i : Nat) (c : Cell), s.mem.tin[i]? = some c →
          out[i]? = if 0x41 ≤ c.toNat ∧ c.toNat ≤ 0x5A then s.cfg.picto[c.toNat - 0x41]? else some c) ∧
      (∃ out : List Cell, exec .pictoD s = .next { s with mem := { s.mem with tout := out }, status := 0 } ∧
        out.length = s.mem.tin.length ∧
        (∀ (i : Nat) (c : Cell), s.mem.tin[i]? = some c → c ∉ s.cfg.picto → out[i]? = some c) ∧
        ∀ (i : Nat) (c : Cell) (k : Nat), s.mem.tin[i]? = some c → s.cfg.picto[k]? = some c →
          out[i]? = some (BitVec.ofNat 32 (0x41 + k))))

/-- R274: PICTO.D after PICTO.E returns the text exactly when it holds no symbol, and turns the symbols it holds into
letters; PICTO.E after PICTO.D returns the text exactly when it holds no upper-case letter. -/
def Obligations.PictogramsRoundTrip : Prop :=
  ∀ s : State, s.cfg.pictoWellFormed = true →
    (∃ t, runCommands [.pictoE, .movt, .pictoD] s = .next t ∧ t.status = 0 ∧
      (t.mem.tout = s.mem.tin ↔ ∀ c ∈ s.mem.tin, c ∉ s.cfg.picto) ∧
      ∀ (i : Nat) (c : Cell) (k : Nat), s.mem.tin[i]? = some c → s.cfg.picto[k]? = some c →
        t.mem.tout[i]? = some (BitVec.ofNat 32 (0x41 + k))) ∧
    (∃ t, runCommands [.pictoD, .movt, .pictoE] s = .next t ∧ t.status = 0 ∧
      (t.mem.tout = s.mem.tin ↔ ∀ c ∈ s.mem.tin, ¬ (0x41 ≤ c.toNat ∧ c.toNat ≤ 0x5A)))

/-- R279, R280 with R276 to R278: the letter indices of the text (R13), in order and with FILL_H appended when their
number is odd, are taken in pairs. HILL.E maps each pair of letter indices by the signed matrix P0 P1 / P2 P3 modulo 26;
HILL.D gives the pairs which that matrix maps back to the input's, when its determinant is coprime to 26, and
ERR_NOINVERSE otherwise, before the capacity is tested. Nothing else but STATUS changes. -/
def Obligations.HillMapsPairsByMatrix : Prop :=
  encode .hillE = 0x00000026#32 ∧ encode .hillD = 0x00000126#32 ∧
  (∀ c : Cell, islet c = true ↔ (0x41 ≤ c.toNat ∧ c.toNat ≤ 0x5A) ∨ (0x61 ≤ c.toNat ∧ c.toNat ≤ 0x7A)) ∧
  (∀ c : Cell, islet c = true → idx c = if c.toNat ≤ 0x5A then c.toNat - 0x41 else c.toNat - 0x61) ∧
  ∀ (s : State) (letters v : List Nat), letters = (s.mem.tin.filter islet).map idx →
    v = (if letters.length % 2 = 1 then letters ++ [s.cfg.fillH.val] else letters) →
    (v.length ≤ s.cfg.bufCap →
      ∃ out : List Cell, exec .hillE s = .next { s with mem := { s.mem with tout := out }, status := 0 } ∧
        out.length = v.length ∧
        ∀ j, 2 * j + 1 < v.length →
          out[2 * j]? = some (BitVec.ofNat 32
            (0x41 + ((s.p0.toInt * v.getD (2 * j) 0 + s.p1.toInt * v.getD (2 * j + 1) 0) % 26).toNat)) ∧
          out[2 * j + 1]? = some (BitVec.ofNat 32
            (0x41 + ((s.p2.toInt * v.getD (2 * j) 0 + s.p3.toInt * v.getD (2 * j + 1) 0) % 26).toNat))) ∧
    (Int.gcd (hillDet s) 26 = 1 → v.length ≤ s.cfg.bufCap →
      ∃ out : List Cell, exec .hillD s = .next { s with mem := { s.mem with tout := out }, status := 0 } ∧
        out.length = v.length ∧
        ∀ j, 2 * j + 1 < v.length →
          ∃ x y : Nat, x < 26 ∧ y < 26 ∧
            out[2 * j]? = some (BitVec.ofNat 32 (0x41 + x)) ∧ out[2 * j + 1]? = some (BitVec.ofNat 32 (0x41 + y)) ∧
            (s.p0.toInt * x + s.p1.toInt * y) % 26 = v.getD (2 * j) 0 ∧
            (s.p2.toInt * x + s.p3.toInt * y) % 26 = v.getD (2 * j + 1) 0) ∧
    (s.cfg.bufCap < v.length → exec .hillE s = .next (failedState .tout 9 s)) ∧
    (Int.gcd (hillDet s) 26 ≠ 1 → exec .hillD s = .next (failedState .tout 7 s)) ∧
    (Int.gcd (hillDet s) 26 = 1 → s.cfg.bufCap < v.length → exec .hillD s = .next (failedState .tout 9 s))

/-- R281: with an invertible matrix, HILL.D after HILL.E and HILL.E after HILL.D return the letters in order,
upper-cased, with one FILL_H letter appended if their number is odd; a text of an even number of upper-case letters
comes back exactly. -/
def Obligations.HillRoundTripKeepsLetters : Prop :=
  ∀ (s : State) (letters v : List Nat), letters = (s.mem.tin.filter islet).map idx →
    v = (if letters.length % 2 = 1 then letters ++ [s.cfg.fillH.val] else letters) →
    Int.gcd (hillDet s) 26 = 1 → v.length ≤ s.cfg.bufCap →
    (∃ t, runCommands [.hillE, .movt, .hillD] s = .next t ∧ t.status = 0 ∧
      (t.mem.tout = v.map fun i => BitVec.ofNat 32 (0x41 + i)) ∧
      (s.mem.tin.length % 2 = 0 → (∀ c ∈ s.mem.tin, 0x41 ≤ c.toNat ∧ c.toNat ≤ 0x5A) → t.mem.tout = s.mem.tin)) ∧
    (∃ t, runCommands [.hillD, .movt, .hillE] s = .next t ∧ t.status = 0 ∧
      (t.mem.tout = v.map fun i => BitVec.ofNat 32 (0x41 + i)) ∧
      (s.mem.tin.length % 2 = 0 → (∀ c ∈ s.mem.tin, 0x41 ≤ c.toNat ∧ c.toNat ≤ 0x5A) → t.mem.tout = s.mem.tin))

/-- R285, R286 with R283, R284: with N < 2 RAIL copies the text. With N ≥ 2 position p lies on rail q = p mod 2(N − 1)
if q < N, else on rail 2(N − 1) − q; RAIL.E reads the positions rail by rail, in order within a rail, and RAIL.D puts
the cells back at those positions. Nothing else but STATUS changes. -/
def Obligations.RailReadsRailByRail : Prop :=
  encode .railE = 0x00000027#32 ∧ encode .railD = 0x00000127#32 ∧
  ∀ s : State,
    (s.p0.toInt < 2 →
      exec .railE s = .next { s with mem := { s.mem with tout := s.mem.tin }, status := 0 } ∧
      exec .railD s = .next { s with mem := { s.mem with tout := s.mem.tin }, status := 0 }) ∧
    ∀ (n : Nat) (rail : Nat → Nat), s.p0.toInt = n → 2 ≤ n →
      (∀ p, rail p =
        if p % (2 * (n - 1)) < n then p % (2 * (n - 1)) else 2 * (n - 1) - p % (2 * (n - 1))) →
      ∃ pos : List Nat, pos.Perm (List.range s.mem.tin.length) ∧
        (pos.Pairwise fun p q => rail p < rail q ∨ (rail p = rail q ∧ p < q)) ∧
        exec .railE s =
          .next { s with mem := { s.mem with tout := pos.map fun p => s.mem.tin.getD p 0 }, status := 0 } ∧
        ∃ out : List Cell, exec .railD s = .next { s with mem := { s.mem with tout := out }, status := 0 } ∧
          out.length = s.mem.tin.length ∧
          ∀ k, k < s.mem.tin.length → out[pos.getD k 0]? = s.mem.tin[k]?

/-- R287: for every text and every P0, RAIL.D after RAIL.E and RAIL.E after RAIL.D return the text. -/
def Obligations.RailDirectionsAreInverse : Prop :=
  ∀ s : State,
    (∃ t, runCommands [.railE, .movt, .railD] s = .next t ∧ t.mem.tout = s.mem.tin ∧ t.status = 0) ∧
    (∃ t, runCommands [.railD, .movt, .railE] s = .next t ∧ t.mem.tout = s.mem.tin ∧ t.status = 0)

/-- R292, R293 with R291: MULT.E multiplies every letter index by the signed P0 modulo 26, whatever the key; MULT.D by
the key's inverse modulo 26 when the key is coprime to 26, and is ERR_NOINVERSE otherwise. Case and other cells are
kept; nothing else but STATUS changes. -/
def Obligations.MultMultipliesLetterIndices : Prop :=
  encode .multE = 0x00000028#32 ∧ encode .multD = 0x00000128#32 ∧
  ∀ s : State,
    exec .multE s =
      .next { s with
        mem := { s.mem with tout := s.mem.tin.map (letterMap fun i => i * (s.p0.toInt % 26).toNat) }
        status := 0 } ∧
    (Int.gcd s.p0.toInt 26 = 1 →
      ∃ n : Nat, 1 ≤ n ∧ n ≤ 25 ∧ s.p0.toInt * n % 26 = 1 ∧
        exec .multD s =
          .next { s with mem := { s.mem with tout := s.mem.tin.map (letterMap fun i => i * n) }, status := 0 }) ∧
    (Int.gcd s.p0.toInt 26 ≠ 1 → exec .multD s = .next (failedState .tout 7 s))

/-- R294: when the key has an inverse modulo 26, MULT.D after MULT.E and MULT.E after MULT.D return the text. -/
def Obligations.MultDirectionsAreInverse : Prop :=
  ∀ s : State, Int.gcd s.p0.toInt 26 = 1 →
    (∃ t, runCommands [.multE, .movt, .multD] s = .next t ∧ t.mem.tout = s.mem.tin ∧ t.status = 0) ∧
    (∃ t, runCommands [.multD, .movt, .multE] s = .next t ∧ t.mem.tout = s.mem.tin ∧ t.status = 0)

/-! Envelope, base64 and moves (spec/46_envelope.md) -/

/-- R312, R313: ENV_PACK writes IV followed by DIN to DOUT when IV has exactly 16 (or 8) bytes and the envelope fits;
the IV's length is tested first. Nothing else but STATUS changes. -/
def Obligations.EnvelopePackPrependsIv : Prop :=
  encode .envPackA = 0x00000030#32 ∧ encode .envPackB = 0x00000230#32 ∧
  ∀ s : State,
    (s.mem.iv.length = 16 → 16 + s.mem.din.length ≤ s.cfg.bufCap →
      exec .envPackA s = .next { s with mem := { s.mem with dout := s.mem.iv ++ s.mem.din }, status := 0 }) ∧
    (s.mem.iv.length = 8 → 8 + s.mem.din.length ≤ s.cfg.bufCap →
      exec .envPackB s = .next { s with mem := { s.mem with dout := s.mem.iv ++ s.mem.din }, status := 0 }) ∧
    (s.mem.iv.length ≠ 16 → exec .envPackA s = .next (failedState .dout 2 s)) ∧
    (s.mem.iv.length ≠ 8 → exec .envPackB s = .next (failedState .dout 2 s)) ∧
    (s.mem.iv.length = 16 → s.cfg.bufCap < 16 + s.mem.din.length →
      exec .envPackA s = .next (failedState .dout 9 s)) ∧
    (s.mem.iv.length = 8 → s.cfg.bufCap < 8 + s.mem.din.length →
      exec .envPackB s = .next (failedState .dout 9 s))

/-- R314, R315: ENV_UNPACK splits an envelope of at least 16 (or 8) bytes into IV and DOUT; a shorter one is
ERR_ENVELOPE and leaves IV as it was. Nothing else but STATUS changes. -/
def Obligations.EnvelopeUnpackSplitsIv : Prop :=
  encode .envUnpackA = 0x00000031#32 ∧ encode .envUnpackB = 0x00000231#32 ∧
  ∀ (s : State) (iv ct : List Byte), s.mem.din = iv ++ ct →
    (iv.length = 16 →
      exec .envUnpackA s = .next { s with mem := { s.mem with iv := iv, dout := ct }, status := 0 }) ∧
    (iv.length = 8 →
      exec .envUnpackB s = .next { s with mem := { s.mem with iv := iv, dout := ct }, status := 0 }) ∧
    (s.mem.din.length < 16 → exec .envUnpackA s = .next (failedState .dout 4 s)) ∧
    (s.mem.din.length < 8 → exec .envUnpackB s = .next (failedState .dout 4 s))

/-- R316: pack, move, unpack leaves IV as it was and DOUT equal to the original DIN; unpack, move, pack leaves DOUT
equal to the original DIN (which fits its own buffer). -/
def Obligations.EnvelopeRoundTrips : Prop :=
  ∀ s : State,
    (s.mem.iv.length = 16 → 16 + s.mem.din.length ≤ s.cfg.bufCap →
      ∃ t, runCommands [.envPackA, .movb, .envUnpackA] s = .next t ∧ t.status = 0 ∧
        t.mem.iv = s.mem.iv ∧ t.mem.dout = s.mem.din) ∧
    (s.mem.iv.length = 8 → 8 + s.mem.din.length ≤ s.cfg.bufCap →
      ∃ t, runCommands [.envPackB, .movb, .envUnpackB] s = .next t ∧ t.status = 0 ∧
        t.mem.iv = s.mem.iv ∧ t.mem.dout = s.mem.din) ∧
    (16 ≤ s.mem.din.length → s.mem.din.length ≤ s.cfg.bufCap →
      ∃ t, runCommands [.envUnpackA, .movb, .envPackA] s = .next t ∧ t.status = 0 ∧ t.mem.dout = s.mem.din) ∧
    (8 ≤ s.mem.din.length → s.mem.din.length ≤ s.cfg.bufCap →
      ∃ t, runCommands [.envUnpackB, .movb, .envPackB] s = .next t ∧ t.status = 0 ∧ t.mem.dout = s.mem.din)

/-- R322 with R321: B64.E writes the 6-bit digits of DIN read as one big-endian number, the last one filled with zero
bits, then '=' up to a multiple of 4; it fails only for capacity. Nothing else but STATUS changes. -/
def Obligations.Base64EncodesSextets : Prop :=
  encode .b64E = 0x00000032#32 ∧
  ∀ s : State,
    (4 * ((s.mem.din.length + 2) / 3) ≤ s.cfg.bufCap →
      ∃ out : List Byte, exec .b64E s = .next { s with mem := { s.mem with dout := out }, status := 0 } ∧
        out.length = 4 * ((s.mem.din.length + 2) / 3) ∧
        ∀ i, i < out.length →
          out.getD i 0 =
            if 6 * i + 6 ≤ 8 * s.mem.din.length then
              b64Char (be s.mem.din >>> (8 * s.mem.din.length - (6 * i + 6)) % 64)
            else if 6 * i < 8 * s.mem.din.length then
              b64Char (be s.mem.din <<< (6 * i + 6 - 8 * s.mem.din.length) % 64)
            else 0x3D) ∧
    (s.cfg.bufCap < 4 * ((s.mem.din.length + 2) / 3) → exec .b64E s = .next (failedState .dout 9 s))

/-- R323 with R321: B64.D succeeds exactly on at most two '=' after alphabet characters, the whole length a multiple of
4; the result is the 6-bit values as one big-endian number without its last 2 bits for each '=', three bytes for four
characters less one for each '='. Every other text is ERR_B64. Nothing else but STATUS changes. -/
def Obligations.Base64DecodesStrictly : Prop :=
  encode .b64D = 0x00000132#32 ∧
  (∀ v, v < 26 → b64Char v = BitVec.ofNat 8 (0x41 + v)) ∧
  (∀ v, 26 ≤ v → v < 52 → b64Char v = BitVec.ofNat 8 (0x61 + (v - 26))) ∧
  (∀ v, 52 ≤ v → v < 62 → b64Char v = BitVec.ofNat 8 (0x30 + (v - 52))) ∧
  b64Char 62 = 0x2B ∧ b64Char 63 = 0x2F ∧
  ∀ s : State,
    (∀ (vals : List Nat) (pads : Nat) (out : List Byte), (∀ v ∈ vals, v < 64) → pads ≤ 2 →
      s.mem.din = vals.map b64Char ++ List.replicate pads 0x3D → (vals.length + pads) % 4 = 0 →
      out.length + pads = 3 * ((vals.length + pads) / 4) →
      be out = vals.foldl (fun n v => n * 64 + v) 0 / 4 ^ pads →
      exec .b64D s = .next { s with mem := { s.mem with dout := out }, status := 0 }) ∧
    ((¬ ∃ (vals : List Nat) (pads : Nat), (∀ v ∈ vals, v < 64) ∧ pads ≤ 2 ∧
        s.mem.din = vals.map b64Char ++ List.replicate pads 0x3D ∧ (vals.length + pads) % 4 = 0) →
      exec .b64D s = .next (failedState .dout 3 s))

/-- R324: B64.D after B64.E returns the bytes; the encoding consists of alphabet characters and at most two trailing
'='; B64.E after B64.D returns the text with the unused low bits of its last data character zero, so exactly when they
were zero. -/
def Obligations.Base64RoundTrips : Prop :=
  (∀ s : State, 4 * ((s.mem.din.length + 2) / 3) ≤ s.cfg.bufCap →
    ∃ t, runCommands [.b64E, .movb, .b64D] s = .next t ∧ t.mem.dout = s.mem.din ∧ t.status = 0) ∧
  (∀ b : List Byte, ∃ (data : List Byte) (pads : Nat), pads ≤ 2 ∧ b64Enc b = data ++ List.replicate pads 0x3D ∧
    ∀ c ∈ data, ∃ v, v < 64 ∧ c = b64Char v) ∧
  ∀ (s : State) (ini : List Nat) (x pads : Nat), (∀ v ∈ ini, v < 64) → x < 64 → pads ≤ 2 →
    (ini.length + 1 + pads) % 4 = 0 → s.mem.din = (ini ++ [x]).map b64Char ++ List.replicate pads 0x3D →
    s.mem.din.length ≤ s.cfg.bufCap →
    ∃ t, runCommands [.b64D, .movb, .b64E] s = .next t ∧ t.status = 0 ∧
      t.mem.dout = (ini ++ [x / 4 ^ pads * 4 ^ pads]).map b64Char ++ List.replicate pads 0x3D

/-- R334, R335: MOVB makes DIN the content of DOUT, MOVT makes TIN the content of TOUT, and nothing else but STATUS
changes. -/
def Obligations.MovesCopyWholeBuffers : Prop :=
  encode .movb = 0x00000038#32 ∧ encode .movt = 0x00000039#32 ∧
  ∀ s : State,
    exec .movb s = .next { s with mem := { s.mem with din := s.mem.dout }, status := 0 } ∧
    exec .movt s = .next { s with mem := { s.mem with tin := s.mem.tout }, status := 0 }

/-- R98 with R178, R211, R316, R324: for every passphrase and message that fit, ENCRYPT_A and then DECRYPT_A on the text
left in DOUT end with OK and the message in DOUT; ENCRYPT_B and DECRYPT_B likewise. -/
def Obligations.MacrosReturnTheMessage : Prop :=
  ∀ (s : State) (pw m : List Byte), pw.length ≤ s.cfg.bufCap →
    (4 * ((16 + m.length + 2) / 3) ≤ s.cfg.bufCap →
      ∃ t t', runMacro (encryptA pw m) s = .next t ∧ t.status = 0 ∧
        runMacro (decryptA pw t.mem.dout) t = .next t' ∧ t'.status = 0 ∧ t'.mem.dout = m) ∧
    (4 * ((8 + (m.length + (8 - m.length % 8)) + 2) / 3) ≤ s.cfg.bufCap →
      ∃ t t', runMacro (encryptB pw m) s = .next t ∧ t.status = 0 ∧
        runMacro (decryptB pw t.mem.dout) t = .next t' ∧ t'.status = 0 ∧ t'.mem.dout = m)

/-! Encoding (spec/30_encoding.md) -/

/-- R90 to R94: for every well-formed command, with DIR at each value its word admits, decoding its encoding gives it
back. -/
def Obligations.DecodeOfEncodeIsIdentity : Prop :=
  ∀ i : Instr, i.wellFormed = true → decode (encode i) = .ok i

/-- R94, in match and mask terms: a word decodes to a command exactly when it is that command's word; a word is legal
exactly when some row's fixed bits match; no word matches two rows. -/
def Obligations.DecodeAcceptsExactlyTheTable : Prop :=
  (∀ (w : Word) (i : Instr), decode w = .ok i ↔ w = encode i) ∧
  (∀ w : Word, (∃ i, decode w = .ok i) ↔ ∃ i, w &&& rowMask i = rowMatch i) ∧
  ∀ (w : Word) (i j : Instr), w &&& rowMask i = rowMatch i → w &&& rowMask j = rowMatch j → rowMatch i = rowMatch j

/-- R93: words written out from the columns OPC, DIR and SEL decode to the commands they stand for; sanity only. -/
def Obligations.PrintedWordsDecode : Prop :=
  decode 0b00000000000000000000000000000001#32 = .ok .gfmul ∧
  decode 0b00000000000000000000001000001001#32 = .ok .genIvB ∧
  decode 0b00000000000000000000000100010010#32 = .ok (.aCtr 1) ∧
  decode 0b00000000000000000000000100011010#32 = .ok .bCbcD ∧
  decode 0b00000000000000000000000000100011#32 = .ok .transpE ∧
  decode 0b00000000000000000000000100100110#32 = .ok .hillD ∧
  decode 0b00000000000000000000001000110001#32 = .ok .envUnpackB

/-! The machine (spec/10_state.md, 20_memory.md, 60_exceptions.md, 70_reset_and_hazards.md) -/

/-- A step runs the decoded command. R27, R70: a step takes the oldest pending transaction; when it is a write to CMD of
a word that decodes to i, the step is `exec i` with that transaction gone; with nothing pending nothing changes. The
queue of pending transactions is the model's (log entry 4). -/
def Obligations.StepRunsTheDecodedCommand : Prop :=
  (∀ (s : State) (rest : List Transaction) (w : Word) (i : Instr),
    s.pending = .writeReg 0 w :: rest → decode w = .ok i → step s = exec i { s with pending := rest }) ∧
  (∀ (s : State) (x : Transaction) (rest : List Transaction),
    s.pending = x :: rest → step s = perform x { s with pending := rest }) ∧
  (∀ s : State, s.pending = [] → step s = .next s) ∧
  ∀ (s : State) (i : Instr), step (s.withFetchWord 32 (encode i).toNat) = exec i s

/-- R95, R347: a write to CMD of a word that is no command sets STATUS to ERR_ILLEGAL (10) and changes nothing else; the
word 0 is such a word. -/
def Obligations.IllegalWordOnlySetsStatus : Prop :=
  (∀ (s : State) (rest : List Transaction) (w : Word), s.pending = .writeReg 0 w :: rest → (∀ i, w ≠ encode i) →
    step s = .next { s with pending := rest, status := 10 }) ∧
  ∀ i, (0 : Word) ≠ encode i

/-- R38, "A command never changes anything not listed under writes": whatever a command answers, every register and
every element of every buffer outside its column "writes" is unchanged, and so is all that is not engine state, but
for the sample a GEN_IV takes. -/
def Obligations.CommandsWriteOnlyWhatIsListed : Prop :=
  ∀ (i : Instr) (s t : State), exec i s = .next t →
    (∀ x : Item, x ∉ writesOf i → sameItem x s t) ∧
    t.cfg = s.cfg ∧ t.timeMs = s.timeMs ∧ t.pending = s.pending ∧ t.lastRead = s.lastRead ∧
    (readsTime i = false → t.timeDraws = s.timeDraws)

/-- R38, "Reads lists every piece of state the command's result depends on": two states of one configuration that agree
on a command's column "reads" (and, for GEN_IV, on the sample of TIME_MS) get the same STATUS and, on success, the same
results. -/
def Obligations.CommandsDependOnlyOnWhatIsListed : Prop :=
  ∀ (i : Instr) (s s' t t' : State), s.cfg = s'.cfg → (∀ x ∈ readsOf i, sameItem x s s') →
    (readsTime i = true → s.sampleTime = s'.sampleTime) →
    exec i s = .next t → exec i s' = .next t' →
    t.status = t'.status ∧ (t.status = 0 → ∀ x ∈ writesOf i, sameItem x t t')

/-- R351: every command, in every state, answers a next state with one code of 0 to 10, and the listed commands that can
never fail answer OK. -/
def Obligations.EveryCommandEndsWithOneCode : Prop :=
  ∀ (i : Instr) (s : State), ∃ t, exec i s = .next t ∧ t.status.toNat ≤ 10 ∧ (neverFails i = true → t.status = 0)

/-- R348, R346, R341: a command reports the first test that fails in the order of R348, and then the state is the one
before it with STATUS and the emptied destination changed, the destination being that of R38's last column; when no
test fails it reports OK, and none fails where that column says "(cannot fail)". -/
def Obligations.FirstFailingTestIsReported : Prop :=
  ∀ (i : Instr) (s : State),
    (verdict i s = 0 → ∃ t, exec i s = .next t ∧ t.status = 0) ∧
    (verdict i s ≠ 0 → ∃ d, failDest i = some d ∧ exec i s = .next (failedState d (verdict i s) s)) ∧
    (failDest i = none → verdict i s = 0)

/-- Every step keeps the invariant, from every state that has it: no buffer exceeds its capacity (R32), STATUS holds a
code of R341, the parameters keep their constraints (R40). That the
constraints include an upper bound of the capacities is the model's (log entry 3). -/
def Obligations.StepKeepsInvariant : Prop :=
  ∀ s t : State, s.Inv → step s = .next t → t.Inv

/-- The state after reset has the invariant. The buffers and STATUS have it by R50 and R381; the configuration has it by
the model's choice of the default values for State.reset (log entry 3, DESIGN CHOICE), which meet the constraints of
spec/00_scope.md R8 and R9 and the capacities' upper bounds (log entry 3, DEDUCED). -/
def Obligations.ResetHasInvariant : Prop := State.reset.Inv

/-- R381, R50: after Reset every register reads 0 and every buffer is empty, from every state; State.reset is such a
state. The tables and parameters are unchanged. -/
def Obligations.ResetClearsTheEngine : Prop :=
  (∀ s : State, ∃ t, perform .reset s = .next t ∧
    (∀ n, t.readReg n = 0) ∧ (∀ b, t.mem.bytes b = []) ∧ (∀ b, t.mem.cells b = []) ∧
    t.cfg = s.cfg) ∧
  (∀ n, State.reset.readReg n = 0) ∧ (∀ b, State.reset.mem.bytes b = []) ∧ ∀ b, State.reset.mem.cells b = []

/-- R63, R26, R34, R29 to R33: every number of R26 reads its register; a write to a RW register is read back and
changes no other register and no buffer; a write to a read-only register or to a number above 0x13 changes nothing; a
read returns the register, 0 for CMD and for numbers above 0x13, and changes nothing but the value the host received
(log entry 7). -/
def Obligations.RegisterAccessByTheHost : Prop :=
  (∀ (s : State) (n : Nat) (v : Word), 2 ≤ n → n ≤ 7 →
    ∃ t, perform (.writeReg n v) s = .next t ∧ t.readReg n = v ∧ (∀ m, m ≠ n → t.readReg m = s.readReg m) ∧
      t.mem = s.mem) ∧
  (∀ (s : State) (n : Nat) (v : Word), n = 1 ∨ 8 ≤ n → perform (.writeReg n v) s = .next s) ∧
  (∀ (s : State) (n : Nat),
    perform (.readReg n) s = .next { s with lastRead := .word (s.readReg n) } ∧
    s.readReg 0 = 0 ∧ (0x13 < n → s.readReg n = 0)) ∧
  ∀ s : State,
    s.readReg 0x00 = 0 ∧ s.readReg 0x01 = s.status ∧ s.readReg 0x02 = s.p0 ∧ s.readReg 0x03 = s.p1 ∧
    s.readReg 0x04 = s.p2 ∧ s.readReg 0x05 = s.p3 ∧ s.readReg 0x06 = s.pvHi ∧ s.readReg 0x07 = s.pvLo ∧
    s.readReg 0x08 = s.rvHi ∧ s.readReg 0x09 = s.rvLo ∧ s.readReg 0x0A = BitVec.ofNat 32 s.mem.key.length ∧
    s.readReg 0x0B = BitVec.ofNat 32 s.mem.iv.length ∧ s.readReg 0x0C = BitVec.ofNat 32 s.mem.din.length ∧
    s.readReg 0x0D = BitVec.ofNat 32 s.mem.dout.length ∧ s.readReg 0x0E = BitVec.ofNat 32 s.mem.ptab.length ∧
    s.readReg 0x0F = BitVec.ofNat 32 s.mem.tkey.length ∧ s.readReg 0x10 = BitVec.ofNat 32 s.mem.tin.length ∧
    s.readReg 0x11 = BitVec.ofNat 32 s.mem.tout.length ∧ s.readReg 0x12 = s.ivctrHi ∧
    s.readReg 0x13 = s.ivctrLo ∧ s.pv = s.pvHi ++ s.pvLo ∧ s.rv = s.rvHi ++ s.rvLo ∧
    s.ivctr = s.ivctrHi ++ s.ivctrLo

/-- R64, R65: a load that fits replaces its buffer's content and nothing else; a load longer than the capacity is
refused; a read of a buffer returns exactly its content and changes nothing but the value the host received (log
entry 7). -/
def Obligations.BufferAccessByTheHost : Prop :=
  (∀ (s : State) (b : LoadByteBuf) (v : List Byte),
    (v.length ≤ s.cfg.byteCap b.buf →
      ∃ m, perform (.loadBytes b v) s = .next { s with mem := m } ∧ m.bytes b.buf = v ∧
        (∀ b', b' ≠ b.buf → m.bytes b' = s.mem.bytes b') ∧ ∀ c, m.cells c = s.mem.cells c) ∧
    (s.cfg.byteCap b.buf < v.length → perform (.loadBytes b v) s = .refused .loadTooLong)) ∧
  (∀ (s : State) (b : LoadCellBuf) (v : List Cell),
    (v.length ≤ s.cfg.cellCap b.buf →
      ∃ m, perform (.loadCells b v) s = .next { s with mem := m } ∧ m.cells b.buf = v ∧
        (∀ b', b' ≠ b.buf → m.cells b' = s.mem.cells b') ∧ ∀ c, m.bytes c = s.mem.bytes c) ∧
    (s.cfg.cellCap b.buf < v.length → perform (.loadCells b v) s = .refused .loadTooLong)) ∧
  (∀ (s : State) (b : ByteBuf),
    perform (.readBytes b) s = .next { s with lastRead := .bytes (s.mem.bytes b) }) ∧
  ∀ (s : State) (b : CellBuf), perform (.readCells b) s = .next { s with lastRead := .cells (s.mem.cells b) }
end

