-- ==== Sys2Proof/Laws/State.lean ====
section
/-! SUPPORT. One lemma per field per update of the state, and of the buffers, true by rfl. -/

namespace Sys2Proof.Machine

variable (s : State) (m : Memory)

@[simp] theorem State.setStatus_status (c : Code) : (s.setStatus c).status = c.word := rfl
@[simp] theorem State.setStatus_p0 (c : Code) : (s.setStatus c).p0 = s.p0 := rfl
@[simp] theorem State.setStatus_p1 (c : Code) : (s.setStatus c).p1 = s.p1 := rfl
@[simp] theorem State.setStatus_p2 (c : Code) : (s.setStatus c).p2 = s.p2 := rfl
@[simp] theorem State.setStatus_p3 (c : Code) : (s.setStatus c).p3 = s.p3 := rfl
@[simp] theorem State.setStatus_pvHi (c : Code) : (s.setStatus c).pvHi = s.pvHi := rfl
@[simp] theorem State.setStatus_pvLo (c : Code) : (s.setStatus c).pvLo = s.pvLo := rfl
@[simp] theorem State.setStatus_rvHi (c : Code) : (s.setStatus c).rvHi = s.rvHi := rfl
@[simp] theorem State.setStatus_rvLo (c : Code) : (s.setStatus c).rvLo = s.rvLo := rfl
@[simp] theorem State.setStatus_ivctrHi (c : Code) : (s.setStatus c).ivctrHi = s.ivctrHi := rfl
@[simp] theorem State.setStatus_ivctrLo (c : Code) : (s.setStatus c).ivctrLo = s.ivctrLo := rfl
@[simp] theorem State.setStatus_mem (c : Code) : (s.setStatus c).mem = s.mem := rfl
@[simp] theorem State.setStatus_cfg (c : Code) : (s.setStatus c).cfg = s.cfg := rfl
@[simp] theorem State.setStatus_timeMs (c : Code) : (s.setStatus c).timeMs = s.timeMs := rfl
@[simp] theorem State.setStatus_timeDraws (c : Code) : (s.setStatus c).timeDraws = s.timeDraws := rfl
@[simp] theorem State.setStatus_pending (c : Code) : (s.setStatus c).pending = s.pending := rfl
@[simp] theorem State.setStatus_lastRead (c : Code) : (s.setStatus c).lastRead = s.lastRead := rfl

@[simp] theorem State.putBytes_status (b : ByteBuf) (v : List Byte) : (s.putBytes b v).status = s.status := rfl
@[simp] theorem State.putBytes_p0 (b : ByteBuf) (v : List Byte) : (s.putBytes b v).p0 = s.p0 := rfl
@[simp] theorem State.putBytes_p1 (b : ByteBuf) (v : List Byte) : (s.putBytes b v).p1 = s.p1 := rfl
@[simp] theorem State.putBytes_p2 (b : ByteBuf) (v : List Byte) : (s.putBytes b v).p2 = s.p2 := rfl
@[simp] theorem State.putBytes_p3 (b : ByteBuf) (v : List Byte) : (s.putBytes b v).p3 = s.p3 := rfl
@[simp] theorem State.putBytes_pvHi (b : ByteBuf) (v : List Byte) : (s.putBytes b v).pvHi = s.pvHi := rfl
@[simp] theorem State.putBytes_pvLo (b : ByteBuf) (v : List Byte) : (s.putBytes b v).pvLo = s.pvLo := rfl
@[simp] theorem State.putBytes_rvHi (b : ByteBuf) (v : List Byte) : (s.putBytes b v).rvHi = s.rvHi := rfl
@[simp] theorem State.putBytes_rvLo (b : ByteBuf) (v : List Byte) : (s.putBytes b v).rvLo = s.rvLo := rfl
@[simp] theorem State.putBytes_ivctrHi (b : ByteBuf) (v : List Byte) : (s.putBytes b v).ivctrHi = s.ivctrHi := rfl
@[simp] theorem State.putBytes_ivctrLo (b : ByteBuf) (v : List Byte) : (s.putBytes b v).ivctrLo = s.ivctrLo := rfl
@[simp] theorem State.putBytes_mem (b : ByteBuf) (v : List Byte) : (s.putBytes b v).mem = s.mem.setBytes b v := rfl
@[simp] theorem State.putBytes_cfg (b : ByteBuf) (v : List Byte) : (s.putBytes b v).cfg = s.cfg := rfl
@[simp] theorem State.putBytes_timeMs (b : ByteBuf) (v : List Byte) : (s.putBytes b v).timeMs = s.timeMs := rfl
@[simp] theorem State.putBytes_timeDraws (b : ByteBuf) (v : List Byte) : (s.putBytes b v).timeDraws = s.timeDraws := rfl
@[simp] theorem State.putBytes_pending (b : ByteBuf) (v : List Byte) : (s.putBytes b v).pending = s.pending := rfl
@[simp] theorem State.putBytes_lastRead (b : ByteBuf) (v : List Byte) : (s.putBytes b v).lastRead = s.lastRead := rfl

@[simp] theorem State.putCells_status (b : CellBuf) (v : List Cell) : (s.putCells b v).status = s.status := rfl
@[simp] theorem State.putCells_p0 (b : CellBuf) (v : List Cell) : (s.putCells b v).p0 = s.p0 := rfl
@[simp] theorem State.putCells_p1 (b : CellBuf) (v : List Cell) : (s.putCells b v).p1 = s.p1 := rfl
@[simp] theorem State.putCells_p2 (b : CellBuf) (v : List Cell) : (s.putCells b v).p2 = s.p2 := rfl
@[simp] theorem State.putCells_p3 (b : CellBuf) (v : List Cell) : (s.putCells b v).p3 = s.p3 := rfl
@[simp] theorem State.putCells_pvHi (b : CellBuf) (v : List Cell) : (s.putCells b v).pvHi = s.pvHi := rfl
@[simp] theorem State.putCells_pvLo (b : CellBuf) (v : List Cell) : (s.putCells b v).pvLo = s.pvLo := rfl
@[simp] theorem State.putCells_rvHi (b : CellBuf) (v : List Cell) : (s.putCells b v).rvHi = s.rvHi := rfl
@[simp] theorem State.putCells_rvLo (b : CellBuf) (v : List Cell) : (s.putCells b v).rvLo = s.rvLo := rfl
@[simp] theorem State.putCells_ivctrHi (b : CellBuf) (v : List Cell) : (s.putCells b v).ivctrHi = s.ivctrHi := rfl
@[simp] theorem State.putCells_ivctrLo (b : CellBuf) (v : List Cell) : (s.putCells b v).ivctrLo = s.ivctrLo := rfl
@[simp] theorem State.putCells_mem (b : CellBuf) (v : List Cell) : (s.putCells b v).mem = s.mem.setCells b v := rfl
@[simp] theorem State.putCells_cfg (b : CellBuf) (v : List Cell) : (s.putCells b v).cfg = s.cfg := rfl
@[simp] theorem State.putCells_timeMs (b : CellBuf) (v : List Cell) : (s.putCells b v).timeMs = s.timeMs := rfl
@[simp] theorem State.putCells_timeDraws (b : CellBuf) (v : List Cell) : (s.putCells b v).timeDraws = s.timeDraws := rfl
@[simp] theorem State.putCells_pending (b : CellBuf) (v : List Cell) : (s.putCells b v).pending = s.pending := rfl
@[simp] theorem State.putCells_lastRead (b : CellBuf) (v : List Cell) : (s.putCells b v).lastRead = s.lastRead := rfl

@[simp] theorem State.setRv_status (v : DWord) : (s.setRv v).status = s.status := rfl
@[simp] theorem State.setRv_p0 (v : DWord) : (s.setRv v).p0 = s.p0 := rfl
@[simp] theorem State.setRv_p1 (v : DWord) : (s.setRv v).p1 = s.p1 := rfl
@[simp] theorem State.setRv_p2 (v : DWord) : (s.setRv v).p2 = s.p2 := rfl
@[simp] theorem State.setRv_p3 (v : DWord) : (s.setRv v).p3 = s.p3 := rfl
@[simp] theorem State.setRv_pvHi (v : DWord) : (s.setRv v).pvHi = s.pvHi := rfl
@[simp] theorem State.setRv_pvLo (v : DWord) : (s.setRv v).pvLo = s.pvLo := rfl
@[simp] theorem State.setRv_rvHi (v : DWord) : (s.setRv v).rvHi = v.extractLsb' 32 32 := rfl
@[simp] theorem State.setRv_rvLo (v : DWord) : (s.setRv v).rvLo = v.extractLsb' 0 32 := rfl
@[simp] theorem State.setRv_ivctrHi (v : DWord) : (s.setRv v).ivctrHi = s.ivctrHi := rfl
@[simp] theorem State.setRv_ivctrLo (v : DWord) : (s.setRv v).ivctrLo = s.ivctrLo := rfl
@[simp] theorem State.setRv_mem (v : DWord) : (s.setRv v).mem = s.mem := rfl
@[simp] theorem State.setRv_cfg (v : DWord) : (s.setRv v).cfg = s.cfg := rfl
@[simp] theorem State.setRv_timeMs (v : DWord) : (s.setRv v).timeMs = s.timeMs := rfl
@[simp] theorem State.setRv_timeDraws (v : DWord) : (s.setRv v).timeDraws = s.timeDraws := rfl
@[simp] theorem State.setRv_pending (v : DWord) : (s.setRv v).pending = s.pending := rfl
@[simp] theorem State.setRv_lastRead (v : DWord) : (s.setRv v).lastRead = s.lastRead := rfl

@[simp] theorem State.setIvctr_status (v : DWord) : (s.setIvctr v).status = s.status := rfl
@[simp] theorem State.setIvctr_p0 (v : DWord) : (s.setIvctr v).p0 = s.p0 := rfl
@[simp] theorem State.setIvctr_p1 (v : DWord) : (s.setIvctr v).p1 = s.p1 := rfl
@[simp] theorem State.setIvctr_p2 (v : DWord) : (s.setIvctr v).p2 = s.p2 := rfl
@[simp] theorem State.setIvctr_p3 (v : DWord) : (s.setIvctr v).p3 = s.p3 := rfl
@[simp] theorem State.setIvctr_pvHi (v : DWord) : (s.setIvctr v).pvHi = s.pvHi := rfl
@[simp] theorem State.setIvctr_pvLo (v : DWord) : (s.setIvctr v).pvLo = s.pvLo := rfl
@[simp] theorem State.setIvctr_rvHi (v : DWord) : (s.setIvctr v).rvHi = s.rvHi := rfl
@[simp] theorem State.setIvctr_rvLo (v : DWord) : (s.setIvctr v).rvLo = s.rvLo := rfl
@[simp] theorem State.setIvctr_ivctrHi (v : DWord) : (s.setIvctr v).ivctrHi = v.extractLsb' 32 32 := rfl
@[simp] theorem State.setIvctr_ivctrLo (v : DWord) : (s.setIvctr v).ivctrLo = v.extractLsb' 0 32 := rfl
@[simp] theorem State.setIvctr_mem (v : DWord) : (s.setIvctr v).mem = s.mem := rfl
@[simp] theorem State.setIvctr_cfg (v : DWord) : (s.setIvctr v).cfg = s.cfg := rfl
@[simp] theorem State.setIvctr_timeMs (v : DWord) : (s.setIvctr v).timeMs = s.timeMs := rfl
@[simp] theorem State.setIvctr_timeDraws (v : DWord) : (s.setIvctr v).timeDraws = s.timeDraws := rfl
@[simp] theorem State.setIvctr_pending (v : DWord) : (s.setIvctr v).pending = s.pending := rfl
@[simp] theorem State.setIvctr_lastRead (v : DWord) : (s.setIvctr v).lastRead = s.lastRead := rfl

@[simp] theorem State.countDraw_status : (s.countDraw).status = s.status := rfl
@[simp] theorem State.countDraw_p0 : (s.countDraw).p0 = s.p0 := rfl
@[simp] theorem State.countDraw_p1 : (s.countDraw).p1 = s.p1 := rfl
@[simp] theorem State.countDraw_p2 : (s.countDraw).p2 = s.p2 := rfl
@[simp] theorem State.countDraw_p3 : (s.countDraw).p3 = s.p3 := rfl
@[simp] theorem State.countDraw_pvHi : (s.countDraw).pvHi = s.pvHi := rfl
@[simp] theorem State.countDraw_pvLo : (s.countDraw).pvLo = s.pvLo := rfl
@[simp] theorem State.countDraw_rvHi : (s.countDraw).rvHi = s.rvHi := rfl
@[simp] theorem State.countDraw_rvLo : (s.countDraw).rvLo = s.rvLo := rfl
@[simp] theorem State.countDraw_ivctrHi : (s.countDraw).ivctrHi = s.ivctrHi := rfl
@[simp] theorem State.countDraw_ivctrLo : (s.countDraw).ivctrLo = s.ivctrLo := rfl
@[simp] theorem State.countDraw_mem : (s.countDraw).mem = s.mem := rfl
@[simp] theorem State.countDraw_cfg : (s.countDraw).cfg = s.cfg := rfl
@[simp] theorem State.countDraw_timeMs : (s.countDraw).timeMs = s.timeMs := rfl
@[simp] theorem State.countDraw_timeDraws : (s.countDraw).timeDraws = s.timeDraws + 1 := rfl
@[simp] theorem State.countDraw_pending : (s.countDraw).pending = s.pending := rfl
@[simp] theorem State.countDraw_lastRead : (s.countDraw).lastRead = s.lastRead := rfl

@[simp] theorem State.answerRead_status (r : Reply) : (s.answerRead r).status = s.status := rfl
@[simp] theorem State.answerRead_p0 (r : Reply) : (s.answerRead r).p0 = s.p0 := rfl
@[simp] theorem State.answerRead_p1 (r : Reply) : (s.answerRead r).p1 = s.p1 := rfl
@[simp] theorem State.answerRead_p2 (r : Reply) : (s.answerRead r).p2 = s.p2 := rfl
@[simp] theorem State.answerRead_p3 (r : Reply) : (s.answerRead r).p3 = s.p3 := rfl
@[simp] theorem State.answerRead_pvHi (r : Reply) : (s.answerRead r).pvHi = s.pvHi := rfl
@[simp] theorem State.answerRead_pvLo (r : Reply) : (s.answerRead r).pvLo = s.pvLo := rfl
@[simp] theorem State.answerRead_rvHi (r : Reply) : (s.answerRead r).rvHi = s.rvHi := rfl
@[simp] theorem State.answerRead_rvLo (r : Reply) : (s.answerRead r).rvLo = s.rvLo := rfl
@[simp] theorem State.answerRead_ivctrHi (r : Reply) : (s.answerRead r).ivctrHi = s.ivctrHi := rfl
@[simp] theorem State.answerRead_ivctrLo (r : Reply) : (s.answerRead r).ivctrLo = s.ivctrLo := rfl
@[simp] theorem State.answerRead_mem (r : Reply) : (s.answerRead r).mem = s.mem := rfl
@[simp] theorem State.answerRead_cfg (r : Reply) : (s.answerRead r).cfg = s.cfg := rfl
@[simp] theorem State.answerRead_timeMs (r : Reply) : (s.answerRead r).timeMs = s.timeMs := rfl
@[simp] theorem State.answerRead_timeDraws (r : Reply) : (s.answerRead r).timeDraws = s.timeDraws := rfl
@[simp] theorem State.answerRead_pending (r : Reply) : (s.answerRead r).pending = s.pending := rfl
@[simp] theorem State.answerRead_lastRead (r : Reply) : (s.answerRead r).lastRead = r := rfl

/-- Writing a byte buffer changes that buffer and no other. -/
theorem Memory.bytes_setBytes (b b' : ByteBuf) (v : List Byte) :
    (m.setBytes b v).bytes b' = if b' = b then v else m.bytes b' := by
  cases b <;> cases b' <;> rfl

/-- Writing a byte buffer changes no cell buffer. -/
@[simp] theorem Memory.cells_setBytes (b : ByteBuf) (b' : CellBuf) (v : List Byte) :
    (m.setBytes b v).cells b' = m.cells b' := by
  cases b <;> cases b' <;> rfl

/-- Writing a cell buffer changes that buffer and no other. -/
theorem Memory.cells_setCells (b b' : CellBuf) (v : List Cell) :
    (m.setCells b v).cells b' = if b' = b then v else m.cells b' := by
  cases b <;> cases b' <;> rfl

/-- Writing a cell buffer changes no byte buffer. -/
@[simp] theorem Memory.bytes_setCells (b : CellBuf) (b' : ByteBuf) (v : List Cell) :
    (m.setCells b v).bytes b' = m.bytes b' := by
  cases b <;> cases b' <;> rfl

@[simp] theorem Memory.setBytes_key_key (v : List Byte) : (m.setBytes .key v).key = v := rfl
@[simp] theorem Memory.setBytes_key_iv (v : List Byte) : (m.setBytes .key v).iv = m.iv := rfl
@[simp] theorem Memory.setBytes_key_din (v : List Byte) : (m.setBytes .key v).din = m.din := rfl
@[simp] theorem Memory.setBytes_key_dout (v : List Byte) : (m.setBytes .key v).dout = m.dout := rfl
@[simp] theorem Memory.setBytes_key_ptab (v : List Byte) : (m.setBytes .key v).ptab = m.ptab := rfl
@[simp] theorem Memory.setBytes_key_tkey (v : List Byte) : (m.setBytes .key v).tkey = m.tkey := rfl
@[simp] theorem Memory.setBytes_key_tin (v : List Byte) : (m.setBytes .key v).tin = m.tin := rfl
@[simp] theorem Memory.setBytes_key_tout (v : List Byte) : (m.setBytes .key v).tout = m.tout := rfl
@[simp] theorem Memory.setBytes_iv_key (v : List Byte) : (m.setBytes .iv v).key = m.key := rfl
@[simp] theorem Memory.setBytes_iv_iv (v : List Byte) : (m.setBytes .iv v).iv = v := rfl
@[simp] theorem Memory.setBytes_iv_din (v : List Byte) : (m.setBytes .iv v).din = m.din := rfl
@[simp] theorem Memory.setBytes_iv_dout (v : List Byte) : (m.setBytes .iv v).dout = m.dout := rfl
@[simp] theorem Memory.setBytes_iv_ptab (v : List Byte) : (m.setBytes .iv v).ptab = m.ptab := rfl
@[simp] theorem Memory.setBytes_iv_tkey (v : List Byte) : (m.setBytes .iv v).tkey = m.tkey := rfl
@[simp] theorem Memory.setBytes_iv_tin (v : List Byte) : (m.setBytes .iv v).tin = m.tin := rfl
@[simp] theorem Memory.setBytes_iv_tout (v : List Byte) : (m.setBytes .iv v).tout = m.tout := rfl
@[simp] theorem Memory.setBytes_din_key (v : List Byte) : (m.setBytes .din v).key = m.key := rfl
@[simp] theorem Memory.setBytes_din_iv (v : List Byte) : (m.setBytes .din v).iv = m.iv := rfl
@[simp] theorem Memory.setBytes_din_din (v : List Byte) : (m.setBytes .din v).din = v := rfl
@[simp] theorem Memory.setBytes_din_dout (v : List Byte) : (m.setBytes .din v).dout = m.dout := rfl
@[simp] theorem Memory.setBytes_din_ptab (v : List Byte) : (m.setBytes .din v).ptab = m.ptab := rfl
@[simp] theorem Memory.setBytes_din_tkey (v : List Byte) : (m.setBytes .din v).tkey = m.tkey := rfl
@[simp] theorem Memory.setBytes_din_tin (v : List Byte) : (m.setBytes .din v).tin = m.tin := rfl
@[simp] theorem Memory.setBytes_din_tout (v : List Byte) : (m.setBytes .din v).tout = m.tout := rfl
@[simp] theorem Memory.setBytes_dout_key (v : List Byte) : (m.setBytes .dout v).key = m.key := rfl
@[simp] theorem Memory.setBytes_dout_iv (v : List Byte) : (m.setBytes .dout v).iv = m.iv := rfl
@[simp] theorem Memory.setBytes_dout_din (v : List Byte) : (m.setBytes .dout v).din = m.din := rfl
@[simp] theorem Memory.setBytes_dout_dout (v : List Byte) : (m.setBytes .dout v).dout = v := rfl
@[simp] theorem Memory.setBytes_dout_ptab (v : List Byte) : (m.setBytes .dout v).ptab = m.ptab := rfl
@[simp] theorem Memory.setBytes_dout_tkey (v : List Byte) : (m.setBytes .dout v).tkey = m.tkey := rfl
@[simp] theorem Memory.setBytes_dout_tin (v : List Byte) : (m.setBytes .dout v).tin = m.tin := rfl
@[simp] theorem Memory.setBytes_dout_tout (v : List Byte) : (m.setBytes .dout v).tout = m.tout := rfl
@[simp] theorem Memory.setBytes_ptab_key (v : List Byte) : (m.setBytes .ptab v).key = m.key := rfl
@[simp] theorem Memory.setBytes_ptab_iv (v : List Byte) : (m.setBytes .ptab v).iv = m.iv := rfl
@[simp] theorem Memory.setBytes_ptab_din (v : List Byte) : (m.setBytes .ptab v).din = m.din := rfl
@[simp] theorem Memory.setBytes_ptab_dout (v : List Byte) : (m.setBytes .ptab v).dout = m.dout := rfl
@[simp] theorem Memory.setBytes_ptab_ptab (v : List Byte) : (m.setBytes .ptab v).ptab = v := rfl
@[simp] theorem Memory.setBytes_ptab_tkey (v : List Byte) : (m.setBytes .ptab v).tkey = m.tkey := rfl
@[simp] theorem Memory.setBytes_ptab_tin (v : List Byte) : (m.setBytes .ptab v).tin = m.tin := rfl
@[simp] theorem Memory.setBytes_ptab_tout (v : List Byte) : (m.setBytes .ptab v).tout = m.tout := rfl
@[simp] theorem Memory.setCells_tkey_key (v : List Cell) : (m.setCells .tkey v).key = m.key := rfl
@[simp] theorem Memory.setCells_tkey_iv (v : List Cell) : (m.setCells .tkey v).iv = m.iv := rfl
@[simp] theorem Memory.setCells_tkey_din (v : List Cell) : (m.setCells .tkey v).din = m.din := rfl
@[simp] theorem Memory.setCells_tkey_dout (v : List Cell) : (m.setCells .tkey v).dout = m.dout := rfl
@[simp] theorem Memory.setCells_tkey_ptab (v : List Cell) : (m.setCells .tkey v).ptab = m.ptab := rfl
@[simp] theorem Memory.setCells_tkey_tkey (v : List Cell) : (m.setCells .tkey v).tkey = v := rfl
@[simp] theorem Memory.setCells_tkey_tin (v : List Cell) : (m.setCells .tkey v).tin = m.tin := rfl
@[simp] theorem Memory.setCells_tkey_tout (v : List Cell) : (m.setCells .tkey v).tout = m.tout := rfl
@[simp] theorem Memory.setCells_tin_key (v : List Cell) : (m.setCells .tin v).key = m.key := rfl
@[simp] theorem Memory.setCells_tin_iv (v : List Cell) : (m.setCells .tin v).iv = m.iv := rfl
@[simp] theorem Memory.setCells_tin_din (v : List Cell) : (m.setCells .tin v).din = m.din := rfl
@[simp] theorem Memory.setCells_tin_dout (v : List Cell) : (m.setCells .tin v).dout = m.dout := rfl
@[simp] theorem Memory.setCells_tin_ptab (v : List Cell) : (m.setCells .tin v).ptab = m.ptab := rfl
@[simp] theorem Memory.setCells_tin_tkey (v : List Cell) : (m.setCells .tin v).tkey = m.tkey := rfl
@[simp] theorem Memory.setCells_tin_tin (v : List Cell) : (m.setCells .tin v).tin = v := rfl
@[simp] theorem Memory.setCells_tin_tout (v : List Cell) : (m.setCells .tin v).tout = m.tout := rfl
@[simp] theorem Memory.setCells_tout_key (v : List Cell) : (m.setCells .tout v).key = m.key := rfl
@[simp] theorem Memory.setCells_tout_iv (v : List Cell) : (m.setCells .tout v).iv = m.iv := rfl
@[simp] theorem Memory.setCells_tout_din (v : List Cell) : (m.setCells .tout v).din = m.din := rfl
@[simp] theorem Memory.setCells_tout_dout (v : List Cell) : (m.setCells .tout v).dout = m.dout := rfl
@[simp] theorem Memory.setCells_tout_ptab (v : List Cell) : (m.setCells .tout v).ptab = m.ptab := rfl
@[simp] theorem Memory.setCells_tout_tkey (v : List Cell) : (m.setCells .tout v).tkey = m.tkey := rfl
@[simp] theorem Memory.setCells_tout_tin (v : List Cell) : (m.setCells .tout v).tin = m.tin := rfl
@[simp] theorem Memory.setCells_tout_tout (v : List Cell) : (m.setCells .tout v).tout = v := rfl

/-- Two 32-bit halves of a 64-bit value put together again. -/
theorem append_halves (v : DWord) : (v.extractLsb' 32 32 ++ v.extractLsb' 0 32 : DWord) = v := by
  ext i hi
  simp only [BitVec.getElem_append, BitVec.getElem_extractLsb']
  split
  · simp [BitVec.getLsbD_eq_getElem hi]
  · rw [Nat.add_sub_of_le (by omega)]
    exact BitVec.getLsbD_eq_getElem hi

/-- RV reads back what `RV <- v` wrote (10_state.md R31). -/
@[simp] theorem State.setRv_rv (v : DWord) : (s.setRv v).rv = v := append_halves v

/-- IVCTR reads back what was written (10_state.md R33). -/
@[simp] theorem State.setIvctr_ivctr (v : DWord) : (s.setIvctr v).ivctr = v := append_halves v

end Sys2Proof.Machine
end

