-- ==== Sys2Proof/Laws/Ops.lean ====
section
/-! SUPPORT. For each shared operation one lemma that says everything it can do, and that every operation over the
buffers keeps their form. -/

namespace Sys2Proof.Machine

variable {s t : State}

/-- What `succeed` answers: a next state, STATUS OK and nothing else changed. -/
theorem succeed_next : succeed s = .next t ↔ t = s.setStatus .ok := by
  simp [succeed, eq_comm]

/-- What `raise` answers: the next state of 60_exceptions.md R346, field by field. -/
theorem raise_next (d : Dest) (c : Code) : raise d c s = .next t ↔ t = failedState d c.word s := by
  cases d <;>
    simp [raise, failedState, State.emptyDest, State.setStatus, State.putBytes, State.putCells, State.setRv,
      Memory.setBytes, Memory.setCells, eq_comm]

/-- What an illegal word does: STATUS is ERR_ILLEGAL and nothing else changes (60_exceptions.md R347). -/
theorem raiseIllegal_next : raiseIllegal s = .next t ↔ t = { s with status := 10 } := by
  simp [raiseIllegal, State.setStatus, Code.word, Code.number, eq_comm]

/-- What `finishBytes` answers: the result in DOUT, or the failure. -/
theorem finishBytes_cases (c : Code) (r : Option (List Byte)) :
    (∃ v, r = some v ∧ finishBytes c r s = .next ((s.putBytes .dout v).setStatus .ok)) ∨
      (r = none ∧ finishBytes c r s = .next (failedState .dout c.word s)) := by
  cases r with
  | some v => exact .inl ⟨v, rfl, rfl⟩
  | none => exact .inr ⟨rfl, (raise_next .dout c).2 rfl⟩

/-- What a single-block command of Cipher B answers (43_cipher_b_feistel.md R213, R214). -/
theorem blockCommandB_cases (dir : Dir) :
    (s.mem.key.length ≠ 8 ∧ blockCommandB dir s = .next (failedState .dout 1 s)) ∨
      (s.mem.key.length = 8 ∧ s.mem.din.length ≠ 8 ∧ blockCommandB dir s = .next (failedState .dout 8 s)) ∨
      (s.mem.key.length = 8 ∧ s.mem.din.length = 8 ∧
        blockCommandB dir s =
          .next ((s.putBytes .dout (blockB (keyschedB s.mem.key) s.mem.din dir)).setStatus .ok)) := by
  by_cases hk : s.mem.key.length = 8
  · by_cases hd : s.mem.din.length = 8
    · exact .inr (.inr ⟨hk, hd, by simp [blockCommandB, hk, hd, succeed]⟩)
    · refine .inr (.inl ⟨hk, hd, ?_⟩)
      rw [blockCommandB, if_neg (not_not.2 hk), if_pos hd]
      exact (raise_next .dout .contract).2 rfl
  · refine .inl ⟨hk, ?_⟩
    rw [blockCommandB, if_pos hk]
    exact (raise_next .dout .keylen).2 rfl

/-- What the tail of the HILL commands answers (45_classical_2.md R279). -/
theorem hillFinish_cases (m : Matrix26) :
    (s.cfg.bufCap < letterCount s.mem.tin + letterCount s.mem.tin % 2 ∧
        hillFinish m s = .next (failedState .tout 9 s)) ∨
      (letterCount s.mem.tin + letterCount s.mem.tin % 2 ≤ s.cfg.bufCap ∧
        hillFinish m s = .next ((s.putCells .tout (hillApply s.cfg.fillH s.mem.tin m)).setStatus .ok)) := by
  by_cases h : s.cfg.bufCap < letterCount s.mem.tin + letterCount s.mem.tin % 2
  · exact .inl ⟨h, by simp only [hillFinish, h, if_true]; exact (raise_next .tout .cap).2 rfl⟩
  · exact .inr ⟨by omega, by simp [hillFinish, h, succeed]⟩

/-- What packing an envelope answers (46_envelope.md R312). -/
theorem envPack_cases (n : Nat) :
    (s.mem.iv.length ≠ n ∧ envPack n s = .next (failedState .dout 2 s)) ∨
      (s.mem.iv.length = n ∧ s.cfg.bufCap < n + s.mem.din.length ∧ envPack n s = .next (failedState .dout 9 s)) ∨
      (s.mem.iv.length = n ∧ n + s.mem.din.length ≤ s.cfg.bufCap ∧
        envPack n s = .next ((s.putBytes .dout (s.mem.iv ++ s.mem.din)).setStatus .ok)) := by
  by_cases hi : s.mem.iv.length = n
  · by_cases h : s.cfg.bufCap < n + s.mem.din.length
    · exact .inr (.inl ⟨hi, h, by
        simp only [envPack, hi, h, ne_eq, not_true, if_false, if_true]; exact (raise_next .dout .cap).2 rfl⟩)
    · exact .inr (.inr ⟨hi, by omega, by simp [envPack, hi, h, succeed]⟩)
  · exact .inl ⟨hi, by
      simp only [envPack, hi, ne_eq, not_false_eq_true, if_true]; exact (raise_next .dout .ivlen).2 rfl⟩

/-- What unpacking an envelope answers (46_envelope.md R314). -/
theorem envUnpack_cases (n : Nat) :
    (s.mem.din.length < n ∧ envUnpack n s = .next (failedState .dout 4 s)) ∨
      (n ≤ s.mem.din.length ∧
        envUnpack n s =
          .next (((s.putBytes .iv (s.mem.din.take n)).putBytes .dout (s.mem.din.drop n)).setStatus .ok)) := by
  by_cases h : s.mem.din.length < n
  · exact .inl ⟨h, by simp only [envUnpack, h, if_true]; exact (raise_next .dout .envelope).2 rfl⟩
  · exact .inr ⟨by omega, by simp [envUnpack, h, succeed]⟩

/-- What a load of bytes answers (20_memory.md R64). -/
theorem loadBytes_next (b : LoadByteBuf) (v : List Byte) :
    loadBytes b v s = .next t ↔ v.length ≤ s.cfg.byteCap b.buf ∧ t = s.putBytes b.buf v := by
  unfold loadBytes
  split
  · simp; omega
  · simp [eq_comm]; omega

/-- What a load of cells answers (20_memory.md R64). -/
theorem loadCells_next (b : LoadCellBuf) (v : List Cell) :
    loadCells b v s = .next t ↔ v.length ≤ s.cfg.cellCap b.buf ∧ t = s.putCells b.buf v := by
  unfold loadCells
  split
  · simp; omega
  · simp [eq_comm]; omega

/-- What a write to CMD answers: the decoded command, or the illegal word's one effect (10_state.md R27). -/
theorem writeCmd_cases (w : Word) :
    (∃ i, decode w = .ok i ∧ writeCmd w s = exec i s) ∨
      (∃ e, decode w = .error e ∧ writeCmd w s = .next { s with status := 10 }) := by
  cases h : decode w with
  | ok i => exact .inl ⟨i, rfl, by simp [writeCmd, h]⟩
  | error e =>
    refine .inr ⟨e, rfl, ?_⟩
    simp only [writeCmd, h]
    exact raiseIllegal_next.2 rfl

/-- What one step does: nothing with nothing pending, else the oldest transaction (20_memory.md R62, R70). -/
theorem step_cases :
    (s.pending = [] ∧ step s = .next s) ∨
      (∃ x rest, s.pending = x :: rest ∧ step s = perform x { s with pending := rest }) := by
  cases h : s.pending with
  | nil => exact .inl ⟨rfl, by simp [step, performNext, h]⟩
  | cons x rest => exact .inr ⟨x, rest, rfl, by simp [step, performNext, h]⟩

/-- The form of the buffers, as a conjunction. -/
theorem Memory.wf_iff (c : Config) (m : Memory) :
    m.wf c = true ↔ (∀ b, (m.bytes b).length ≤ c.byteCap b) ∧ (∀ b, (m.cells b).length ≤ c.cellCap b) := by
  simp only [Memory.wf, Bool.and_eq_true, decide_eq_true_eq]
  constructor
  · rintro ⟨⟨⟨⟨⟨⟨⟨h1, h2⟩, h3⟩, h4⟩, h5⟩, h6⟩, h7⟩, h8⟩
    exact ⟨fun b => by cases b <;> assumption, fun b => by cases b <;> assumption⟩
  · rintro ⟨hb, hc⟩
    exact ⟨⟨⟨⟨⟨⟨⟨hb .key, hb .iv⟩, hb .din⟩, hb .dout⟩, hb .ptab⟩, hc .tkey⟩, hc .tin⟩, hc .tout⟩

/-- Replacing a byte buffer by a content that fits keeps the form. -/
theorem Memory.setBytes_wf {c : Config} {m : Memory} (h : m.wf c = true) {b : ByteBuf} {v : List Byte}
    (hv : v.length ≤ c.byteCap b) : (m.setBytes b v).wf c = true := by
  rw [Memory.wf_iff] at *
  refine ⟨fun b' => ?_, fun b' => by simpa using h.2 b'⟩
  rw [Memory.bytes_setBytes]
  split
  · next e => subst e; exact hv
  · exact h.1 b'

/-- Replacing a cell buffer by a content that fits keeps the form. -/
theorem Memory.setCells_wf {c : Config} {m : Memory} (h : m.wf c = true) {b : CellBuf} {v : List Cell}
    (hv : v.length ≤ c.cellCap b) : (m.setCells b v).wf c = true := by
  rw [Memory.wf_iff] at *
  refine ⟨fun b' => by simpa using h.1 b', fun b' => ?_⟩
  rw [Memory.cells_setCells]
  split
  · next e => subst e; exact hv
  · exact h.2 b'

/-- Emptying a destination keeps the form. -/
theorem State.emptyDest_wf {c : Config} (h : s.mem.wf c = true) (d : Dest) : (s.emptyDest d).mem.wf c = true := by
  cases d with
  | rv => simpa [State.emptyDest] using h
  | dout => exact Memory.setBytes_wf h (Nat.zero_le _)
  | tout => exact Memory.setCells_wf h (Nat.zero_le _)

/-- A load of bytes keeps the form. -/
theorem loadBytes_wf {b : LoadByteBuf} {v : List Byte} (h : s.mem.wf s.cfg = true) (ht : loadBytes b v s = .next t) :
    t.mem.wf t.cfg = true := by
  obtain ⟨hv, rfl⟩ := (loadBytes_next b v).1 ht
  exact Memory.setBytes_wf h hv

/-- A load of cells keeps the form. -/
theorem loadCells_wf {b : LoadCellBuf} {v : List Cell} (h : s.mem.wf s.cfg = true) (ht : loadCells b v s = .next t) :
    t.mem.wf t.cfg = true := by
  obtain ⟨hv, rfl⟩ := (loadCells_next b v).1 ht
  exact Memory.setCells_wf h hv

/-- The buffers after Reset have the form, whatever the configuration. -/
theorem Memory.empty_wf (c : Config) : Memory.empty.wf c = true := by
  simp [Memory.wf, Memory.empty]

/-- The buffers at State.reset have the form. -/
theorem reset_mem_wf : State.reset.mem.wf State.reset.cfg = true := Memory.empty_wf _

/-- A code's word is its number, bits 31:5 zero. -/
theorem Code.word_toNat (c : Code) : c.word.toNat = c.number := by cases c <;> rfl

/-- A code's number is at most 10 (60_exceptions.md R341). -/
theorem Code.number_le (c : Code) : c.number ≤ 10 := by cases c <;> decide

/-- A load fits exactly when its transaction is well formed (20_memory.md R64). -/
theorem load_refused_iff_illFormed (b : LoadByteBuf) (v : List Byte) :
    loadBytes b v s = .refused .loadTooLong ↔ (Transaction.loadBytes b v).wellFormed s.cfg = false := by
  unfold loadBytes Transaction.wellFormed
  split <;> simp <;> omega

end Sys2Proof.Machine
end

