-- ==== Sys2Proof/Laws/PerInstr.lean ====
section
/-! SUPPORT. Statements about every command as syntax, one lemma per constructor. -/

namespace Sys2Proof.Laws.TableRow

/-- The word of a command matches its row of the opcode table: the fixed bits of its format hold the row's match
value (spec/30_encoding.md R94), ZERO is 0 (R90), and the row's match value itself is below 0x400. -/
def Statement (i : Instr) : Prop :=
  encode i &&& rowMask i = rowMatch i ∧ zeroField (encode i) = 0 ∧ (rowMatch i).toNat < 0x400

theorem gfmul : Statement .gfmul := by unfold Statement; decide

theorem bitperm : Statement .bitperm := by unfold Statement; decide

theorem deriveKeyA : Statement .deriveKeyA := by unfold Statement; decide

theorem deriveKeyB : Statement .deriveKeyB := by unfold Statement; decide

theorem genIvA : Statement .genIvA := by unfold Statement; decide

theorem genIvB : Statement .genIvB := by unfold Statement; decide

theorem aKeyexp : Statement .aKeyexp := by unfold Statement; decide

theorem aBlock : Statement .aBlock := by unfold Statement; decide

theorem aCtr (dir : BitVec 1) : Statement (.aCtr dir) := by
  revert dir; unfold Statement; decide

theorem bKeysched : Statement .bKeysched := by unfold Statement; decide

theorem bBlockE : Statement .bBlockE := by unfold Statement; decide

theorem bBlockD : Statement .bBlockD := by unfold Statement; decide

theorem bCbcE : Statement .bCbcE := by unfold Statement; decide

theorem bCbcD : Statement .bCbcD := by unfold Statement; decide

theorem shiftE : Statement .shiftE := by unfold Statement; decide

theorem shiftD : Statement .shiftD := by unfold Statement; decide

theorem polyE : Statement .polyE := by unfold Statement; decide

theorem polyD : Statement .polyD := by unfold Statement; decide

theorem rot13 (dir : BitVec 1) : Statement (.rot13 dir) := by
  revert dir; unfold Statement; decide

theorem transpE : Statement .transpE := by unfold Statement; decide

theorem transpD : Statement .transpD := by unfold Statement; decide

theorem fractE : Statement .fractE := by unfold Statement; decide

theorem fractD : Statement .fractD := by unfold Statement; decide

theorem pictoE : Statement .pictoE := by unfold Statement; decide

theorem pictoD : Statement .pictoD := by unfold Statement; decide

theorem hillE : Statement .hillE := by unfold Statement; decide

theorem hillD : Statement .hillD := by unfold Statement; decide

theorem railE : Statement .railE := by unfold Statement; decide

theorem railD : Statement .railD := by unfold Statement; decide

theorem multE : Statement .multE := by unfold Statement; decide

theorem multD : Statement .multD := by unfold Statement; decide

theorem pass (dir : BitVec 1) : Statement (.pass dir) := by
  revert dir; unfold Statement; decide

theorem envPackA : Statement .envPackA := by unfold Statement; decide

theorem envPackB : Statement .envPackB := by unfold Statement; decide

theorem envUnpackA : Statement .envUnpackA := by unfold Statement; decide

theorem envUnpackB : Statement .envUnpackB := by unfold Statement; decide

theorem b64E : Statement .b64E := by unfold Statement; decide

theorem b64D : Statement .b64D := by unfold Statement; decide

theorem movb : Statement .movb := by unfold Statement; decide

theorem movt : Statement .movt := by unfold Statement; decide

end Sys2Proof.Laws.TableRow
end

