-- ==== Sys2Proof/Laws/Sequences.lean ====
section
/-! SUPPORT. Lengths and small facts about the byte-sequence functions, which the provers cite. -/

namespace Sys2Proof.Machine

/-- `unbe_n` gives n bytes (40_utilities.md R120). -/
@[simp] theorem unbe_length (n v : Nat) : (unbe n v).length = n := by simp [unbe]

/-- Byte i of `unbe_n(v)` (40_utilities.md R120). -/
theorem unbe_getElem? (n v i : Nat) (h : i < n) :
    (unbe n v)[i]? = some (BitVec.ofNat 8 (v >>> (8 * (n - 1 - i)))) := by
  simp [unbe, h]

/-- `xorb` has the length of the shorter sequence (40_utilities.md R121 uses equal lengths). -/
@[simp] theorem xorb_length (a b : List Byte) : (xorb a b).length = min a.length b.length := by simp [xorb]

/-- `derive(pw, n)` has n bytes (41_derivation.md R140). -/
@[simp] theorem deriveKey_length (pw : List Byte) (n : Nat) : (deriveKey pw n).length = n := by
  unfold deriveKey
  split
  · simp
  · simp

/-- IVMIX_LEN for n = 8, whichever the choice of the parameter (41_derivation.md R147). -/
@[simp] theorem ivMix8_length (m : IvMix) (t c : DWord) : (ivMix8 m t c).length = 8 := by
  cases m <;> simp [ivMix8, ivMixRef8]

/-- IVMIX_LEN for n = 16, whichever the choice of the parameter (41_derivation.md R147). -/
@[simp] theorem ivMix16_length (m : IvMix) (t c : DWord) : (ivMix16 m t c).length = 16 := by
  cases m <;> simp [ivMix16, ivMixRef16]

/-- Byte substitution keeps the length (42_cipher_a_spn.md R166). -/
@[simp] theorem subA_length (s : List Byte) : (subA s).length = s.length := by simp [subA]

/-- Row rotation gives sixteen bytes (42_cipher_a_spn.md R167). -/
@[simp] theorem shiftA_length (s : List Byte) : (shiftA s).length = 16 := by simp [shiftA]

/-- Column mixing gives sixteen bytes (42_cipher_a_spn.md R168). -/
@[simp] theorem mixA_length (s : List Byte) : (mixA s).length = 16 := by simp [mixA, mixColumn, List.range, List.range.loop]

/-- The counter stays sixteen bytes (42_cipher_a_spn.md R173). -/
@[simp] theorem inc128_length (c : List Byte) : (inc128 c).length = 16 := by simp [inc128]

/-- A block of Cipher B comes out as eight bytes (43_cipher_b_feistel.md R204). -/
@[simp] theorem blockB_length (sk : List (BitVec 48)) (blk : List Byte) (d : Dir) : (blockB sk blk d).length = 8 := by
  simp [blockB]

/-- One subkey per rotation amount (43_cipher_b_feistel.md R201). -/
@[simp] theorem keyschedLoop_length (rs : List Nat) (c d : BitVec 28) : (keyschedLoop rs c d).length = rs.length := by
  induction rs generalizing c d with
  | nil => rfl
  | cons r rs ih => simp [keyschedLoop, ih]

/-- The padded length (43_cipher_b_feistel.md R206). -/
@[simp] theorem pad7_length (m : List Byte) : (pad7 m).length = m.length + padLen m.length := by simp [pad7]

/-- Padding adds 1 to 8 bytes (43_cipher_b_feistel.md R206). -/
theorem padLen_bounds (n : Nat) : 1 ≤ padLen n ∧ padLen n ≤ 8 := by unfold padLen; omega

/-- The running text of POLY keeps its length (44_classical_1.md R237). -/
@[simp] theorem polyLoop_length (eff : Nat → Nat) (key : List Cell) (j : Nat) (text : List Cell) :
    (polyLoop eff key j text).length = text.length := by
  induction text generalizing j with
  | nil => rfl
  | cons c cs ih => unfold polyLoop; split <;> simp [ih]

/-- Fractionation never lengthens on decryption (44_classical_1.md R254). -/
theorem fractDec_length_le (text : List Cell) : (fractDec text).length ≤ text.length := by
  fun_induction fractDec text with
  | case1 => simp
  | case2 c => simp
  | case3 c d rest h ih => simp; omega
  | case4 c d rest h ih => simp at ih ⊢; omega

/-- Decrypting a zig-zag keeps the length (45_classical_2.md R286). -/
@[simp] theorem railDec_length (text : List Cell) (n : Nat) : (railDec text n).length = text.length := by
  simp [railDec]

/-- The number of output cells of the 2×2 substitution (45_classical_2.md R278). -/
theorem hillPairs_length (m : Matrix26) (v : List Nat) : (hillPairs m v).length = v.length / 2 * 2 := by
  fun_induction hillPairs m v with
  | case1 x y rest ih => simp [ih]; omega
  | case2 v h =>
    match v, h with
    | [], _ => rfl
    | [_], _ => simp
    | x :: y :: rest, h => exact absurd rfl (h x y rest)

/-- A removed pad only shortens (43_cipher_b_feistel.md R207). -/
theorem unpad7_length_le {q m : List Byte} (h : unpad7 q = some m) : m.length ≤ q.length := by
  unfold unpad7 at h
  split at h
  · cases h
  · split at h
    · cases h
    · split at h
      · cases h
      · cases h; simp

end Sys2Proof.Machine
end

