-- ==== Sys2Proof/Tests/Slice0.lean ====
section
/-! SUPPORT. The model's own tests: ill-formed terms are refused, words written out from spec/30_encoding.md R93 decode
to their commands, single steps against spec/95_test_vectors.md, and a witness for the hypotheses of every statement
that has some. -/

namespace Sys2Proof.Tests

open Sys2Proof.Machine

set_option Elab.async false

/-- Bytes from numerals. -/
def bytes (l : List Nat) : List Byte := l.map (BitVec.ofNat 8)

/-- Cells from numerals. -/
def cells (l : List Nat) : List Cell := l.map (BitVec.ofNat 32)

/-- The state after reset with KEY, IV and DIN loaded and two old bytes in DOUT. -/
def withBytes (key iv din : List Nat) : State :=
  { State.reset with mem := { Memory.empty with key := bytes key, iv := bytes iv, din := bytes din, dout := [1, 2] } }

/-- The state after reset with P0 to P3, TKEY and TIN loaded and one old cell in TOUT. -/
def withText (p0 p1 p2 p3 : Int) (tkey tin : List Nat) : State :=
  { State.reset with
    p0 := BitVec.ofInt 32 p0, p1 := BitVec.ofInt 32 p1, p2 := BitVec.ofInt 32 p2, p3 := BitVec.ofInt 32 p3
    mem := { Memory.empty with tkey := cells tkey, tin := cells tin, tout := [0x41] } }

/-- The state after reset with IVCTR and the platform's time. -/
def withTime (t c : Nat) : State :=
  { State.reset.setIvctr (BitVec.ofNat 64 c) with timeMs := .driven (BitVec.ofNat 64 t) }

/-- The state after reset with P0, PV and PTAB, and an old RV. -/
def withTable (width pv : Nat) (ptab : List Nat) : State :=
  { State.reset with
    p0 := BitVec.ofNat 32 width, pvHi := BitVec.ofNat 32 (pv / 2 ^ 32), pvLo := BitVec.ofNat 32 pv, rvLo := 0xD
    mem := { Memory.empty with ptab := bytes ptab } }

/-- A state with a small capacity, to show ERR_CAP. -/
def tight (n : Nat) (s : State) : State := { s with cfg := { s.cfg with bufCap := n } }

/-- The default configuration with another symbol table. -/
def withPicto (p : List Cell) : Config := { Config.default with picto := p }

/-- The next state of an answer, if it is one. -/
def nextOf? : Answer → Option State
  | .next t => some t
  | .fault _ => none
  | .refused _ => none

/-- The next state of an answer; the state after reset if it is none. -/
def nextOf (a : Answer) : State := (nextOf? a).getD State.reset

/-- An answer that is a next state is the next state `nextOf` gives. -/
theorem eq_next_nextOf : ∀ a : Answer, (nextOf? a).isSome = true → a = .next (nextOf a)
  | .next _, _ => rfl

/-- One step that runs the word w from s. -/
def after (w : Nat) (s : State) : Option State := nextOf? (step (s.withFetchWord 32 w))

/-- STATUS and DOUT after one step. -/
def bytesAfter (w : Nat) (s : State) : Option (Word × List Byte) := (after w s).map fun t => (t.status, t.mem.dout)

/-- STATUS and TOUT after one step. -/
def textAfter (w : Nat) (s : State) : Option (Word × List Cell) := (after w s).map fun t => (t.status, t.mem.tout)

/-- STATUS and RV after one step. -/
def rvAfter (w : Nat) (s : State) : Option (Word × DWord) := (after w s).map fun t => (t.status, t.rv)

/-- STATUS, IV and IVCTR after one step. -/
def ivAfter (w : Nat) (s : State) : Option (Word × List Byte × DWord) :=
  (after w s).map fun t => (t.status, t.mem.iv, t.ivctr)

/-- The key of spec/95_test_vectors.md DK-1, 16 bytes. -/
def kA : List Nat := [0x6D, 0x79, 0x73, 0x65, 0x63, 0x72, 0x65, 0x74, 0x6B, 0x65, 0x79, 0x6D, 0x79, 0x73, 0x65, 0x63]

/-- The key of spec/95_test_vectors.md DK-1, 8 bytes. -/
def kB : List Nat := [0x6D, 0x79, 0x73, 0x65, 0x63, 0x72, 0x65, 0x74]

/-- The IV of spec/95_test_vectors.md IV-4. -/
def iv16 : List Nat :=
  [0x35, 0x3E, 0x02, 0xC6, 0xC9, 0x80, 0xA2, 0xD0, 0xD8, 0x0E, 0x76, 0x83, 0x1F, 0x4B, 0x17, 0x95]

/-- The IV of spec/95_test_vectors.md IV-6. -/
def iv8 : List Nat := [0x35, 0x3E, 0x02, 0xC6, 0x89, 0x02, 0x82, 0x91]

/-! Well-formedness: an ill-formed term for each check. -/

/-- KEY holds at most 32 bytes (spec/00_scope.md R8). -/
theorem test_wf_load_key_too_long :
    Transaction.wellFormed Config.default (.loadBytes .key (List.replicate 33 0)) = false ∧
      Transaction.wellFormed Config.default (.loadBytes .key (List.replicate 32 0)) = true := by
  decide +kernel

/-- IV holds at most 32 bytes (spec/00_scope.md R8). -/
theorem test_wf_load_iv_too_long :
    Transaction.wellFormed Config.default (.loadBytes .iv (List.replicate 33 0)) = false ∧
      Transaction.wellFormed Config.default (.loadBytes .iv (List.replicate 32 0)) = true := by
  decide +kernel

/-- PTAB holds at most 64 bytes (spec/00_scope.md R8). -/
theorem test_wf_load_ptab_too_long :
    Transaction.wellFormed Config.default (.loadBytes .ptab (List.replicate 65 0)) = false ∧
      Transaction.wellFormed Config.default (.loadBytes .ptab (List.replicate 64 0)) = true := by
  decide +kernel

/-- DIN holds at most BUF_CAP bytes (spec/10_state.md R35). -/
theorem test_wf_load_din_too_long :
    Transaction.wellFormed (tight 3 State.reset).cfg (.loadBytes .din [1, 2, 3, 4]) = false ∧
      Transaction.wellFormed (tight 3 State.reset).cfg (.loadBytes .din [1, 2, 3]) = true := by
  decide +kernel

/-- TIN holds at most BUF_CAP cells (spec/10_state.md R36). -/
theorem test_wf_load_tin_too_long :
    Transaction.wellFormed (tight 1 State.reset).cfg (.loadCells .tin [1, 2]) = false := by
  decide +kernel

/-- TKEY holds at most TKEY_CAP cells (spec/10_state.md R36). -/
theorem test_wf_load_tkey_too_long :
    Transaction.wellFormed Config.default (.loadCells .tkey (List.replicate 257 0x41)) = false := by
  decide +kernel

/-- BUF_CAP is at least 69356 (spec/00_scope.md R8). -/
theorem test_wf_buf_cap_too_small :
    (tight 69355 State.reset).cfg.capsWellFormed = false ∧ (tight 69356 State.reset).cfg.capsWellFormed = true := by
  decide +kernel

/-- A length fits its 32-bit register (log entry 3). -/
theorem test_wf_buf_cap_too_large : (tight 4294967296 State.reset).cfg.capsWellFormed = false := by decide +kernel

/-- TKEY_CAP is at least 10 (spec/00_scope.md R8). -/
theorem test_wf_tkey_cap_too_small :
    Config.capsWellFormed { Config.default with tkeyCap := 9 } = false := by
  decide +kernel

/-- A length fits its 32-bit register (log entry 3). -/
theorem test_wf_tkey_cap_too_large :
    Config.capsWellFormed { Config.default with tkeyCap := 4294967296 } = false := by
  decide +kernel

/-- FILL_T is no letter and no space (spec/44_classical_1.md R243). -/
theorem test_wf_fill_t_letter :
    Config.fillTWellFormed { Config.default with fillT := 0x78 } = false ∧
      Config.fillTWellFormed { Config.default with fillT := 0x41 } = false ∧
      Config.fillTWellFormed { Config.default with fillT := 0x20 } = false := by
  decide +kernel

/-- PICTO has 26 symbols (spec/45_classical_2.md R270). -/
theorem test_wf_picto_short :
    Config.pictoWellFormed (withPicto (Config.default.picto.take 25)) = false := by
  decide +kernel

/-- The symbols are pairwise distinct (spec/45_classical_2.md R270). -/
theorem test_wf_picto_repeated :
    Config.pictoWellFormed (withPicto (Config.default.picto.set 25 0x24B6)) = false := by
  decide +kernel

/-- No symbol is in 'A'..'Z' (spec/45_classical_2.md R270). -/
theorem test_wf_picto_upper_case :
    Config.pictoWellFormed (withPicto (Config.default.picto.set 3 0x5A)) = false := by
  decide +kernel

/-- The default configuration meets every constraint. -/
theorem test_wf_default_config : Config.default.wellFormed = true := by decide +kernel

/-! Decoding: every word of spec/30_encoding.md R93, and one word of each family bit by bit: ZERO, SEL, DIR, OPC. -/

/-- The words of the family in spec/30_encoding.md R93. -/
theorem test_decode_utilities :
    decodeTableWord 32 0x00000001 = some .gfmul ∧
    decodeTableWord 32 0x00000002 = some .bitperm := by
  decide +kernel

/-- One word of the family, bit by bit. -/
theorem test_decode_bits_utilities :
    decodeTableWord 32 0b00000000000000000000000000000010 = some .bitperm := by
  decide +kernel

/-- The words of the family in spec/30_encoding.md R93. -/
theorem test_decode_derivation :
    decodeTableWord 32 0x00000008 = some .deriveKeyA ∧
    decodeTableWord 32 0x00000208 = some .deriveKeyB ∧
    decodeTableWord 32 0x00000009 = some .genIvA ∧
    decodeTableWord 32 0x00000209 = some .genIvB := by
  decide +kernel

/-- One word of the family, bit by bit. -/
theorem test_decode_bits_derivation :
    decodeTableWord 32 0b00000000000000000000001000001000 = some .deriveKeyB := by
  decide +kernel

/-- The words of the family in spec/30_encoding.md R93. -/
theorem test_decode_cipher_a :
    decodeTableWord 32 0x00000010 = some .aKeyexp ∧
    decodeTableWord 32 0x00000011 = some .aBlock ∧
    decodeTableWord 32 0x00000012 = some (.aCtr 0) ∧
    decodeTableWord 32 0x00000112 = some (.aCtr 1) := by
  decide +kernel

/-- One word of the family, bit by bit. -/
theorem test_decode_bits_cipher_a :
    decodeTableWord 32 0b00000000000000000000000100010010 = some (.aCtr 1) := by
  decide +kernel

/-- The words of the family in spec/30_encoding.md R93. -/
theorem test_decode_cipher_b :
    decodeTableWord 32 0x00000018 = some .bKeysched ∧
    decodeTableWord 32 0x00000019 = some .bBlockE ∧
    decodeTableWord 32 0x00000119 = some .bBlockD ∧
    decodeTableWord 32 0x0000001A = some .bCbcE ∧
    decodeTableWord 32 0x0000011A = some .bCbcD := by
  decide +kernel

/-- One word of the family, bit by bit. -/
theorem test_decode_bits_cipher_b :
    decodeTableWord 32 0b00000000000000000000000100011001 = some .bBlockD := by
  decide +kernel

/-- The words of the family in spec/30_encoding.md R93. -/
theorem test_decode_classical_1 :
    decodeTableWord 32 0x00000020 = some .shiftE ∧
    decodeTableWord 32 0x00000120 = some .shiftD ∧
    decodeTableWord 32 0x00000021 = some .polyE ∧
    decodeTableWord 32 0x00000121 = some .polyD ∧
    decodeTableWord 32 0x00000022 = some (.rot13 0) ∧
    decodeTableWord 32 0x00000122 = some (.rot13 1) ∧
    decodeTableWord 32 0x00000023 = some .transpE ∧
    decodeTableWord 32 0x00000123 = some .transpD ∧
    decodeTableWord 32 0x00000024 = some .fractE ∧
    decodeTableWord 32 0x00000124 = some .fractD := by
  decide +kernel

/-- One word of the family, bit by bit. -/
theorem test_decode_bits_classical_1 :
    decodeTableWord 32 0b00000000000000000000000100100011 = some .transpD := by
  decide +kernel

/-- The words of the family in spec/30_encoding.md R93. -/
theorem test_decode_classical_2 :
    decodeTableWord 32 0x00000025 = some .pictoE ∧
    decodeTableWord 32 0x00000125 = some .pictoD ∧
    decodeTableWord 32 0x00000026 = some .hillE ∧
    decodeTableWord 32 0x00000126 = some .hillD ∧
    decodeTableWord 32 0x00000027 = some .railE ∧
    decodeTableWord 32 0x00000127 = some .railD ∧
    decodeTableWord 32 0x00000028 = some .multE ∧
    decodeTableWord 32 0x00000128 = some .multD ∧
    decodeTableWord 32 0x00000029 = some (.pass 0) ∧
    decodeTableWord 32 0x00000129 = some (.pass 1) := by
  decide +kernel

/-- One word of the family, bit by bit. -/
theorem test_decode_bits_classical_2 :
    decodeTableWord 32 0b00000000000000000000000000101000 = some .multE := by
  decide +kernel

/-- The words of the family in spec/30_encoding.md R93. -/
theorem test_decode_envelope :
    decodeTableWord 32 0x00000030 = some .envPackA ∧
    decodeTableWord 32 0x00000230 = some .envPackB ∧
    decodeTableWord 32 0x00000031 = some .envUnpackA ∧
    decodeTableWord 32 0x00000231 = some .envUnpackB ∧
    decodeTableWord 32 0x00000032 = some .b64E ∧
    decodeTableWord 32 0x00000132 = some .b64D ∧
    decodeTableWord 32 0x00000038 = some .movb ∧
    decodeTableWord 32 0x00000039 = some .movt := by
  decide +kernel

/-- One word of the family, bit by bit. -/
theorem test_decode_bits_envelope :
    decodeTableWord 32 0b00000000000000000000001000110001 = some .envUnpackB := by
  decide +kernel

/-- spec/95_test_vectors.md section 11, the illegal words. -/
theorem test_decode_illegal_words :
    [0x0, 0x3, 0xB, 0x1B, 0x2A, 0x33, 0x3A, 0xFF, 0x101, 0x201, 0x110, 0x138, 0x239, 0x108, 0x220, 0x212, 0x312,
      0x401, 0x10020, 0x10000012, 0x80000001, 0xFFFFFFFF].all (fun w => (decodeTableWord 32 w).isNone) = true := by
  decide +kernel

/-- spec/95_test_vectors.md section 11: 43 legal words below 0x400. -/
theorem test_decode_43_words :
    ((List.range 1024).filter fun w => (decodeTableWord 32 w).isSome).length = 43 := by
  decide +kernel

/-! Single steps against spec/95_test_vectors.md. -/

/-- spec/95_test_vectors.md GF-11. -/
theorem test_gfmul : rvAfter 0x01 (withText 0x12345657 0xFFFFFF83 0 0 [] []) = some (0, 0xC1) := by decide +kernel

/-- spec/95_test_vectors.md GF-6. -/
theorem test_gfmul_reduces : rvAfter 0x01 (withText 0xFF 0xFF 0 0 [] []) = some (0, 0x13) := by decide +kernel

/-- spec/95_test_vectors.md BP-6. -/
theorem test_bitperm :
    rvAfter 0x02 (withTable 64 0x8000000000000001 [1, 64, 1, 64]) = some (0, 0xF) := by
  decide +kernel

/-- spec/95_test_vectors.md BP-10, F-4. -/
theorem test_bitperm_entry_above_width : rvAfter 0x02 (withTable 4 0xB [5]) = some (8, 0) := by decide +kernel

/-- spec/95_test_vectors.md DK-1. -/
theorem test_derive_key_a :
    (after 0x08 (withBytes [] [] [0x6D, 0x79, 0x73, 0x65, 0x63, 0x72, 0x65, 0x74, 0x6B, 0x65,
      0x79])).map (·.mem.key) = some (bytes kA) := by
  decide +kernel

/-- spec/95_test_vectors.md DK-2. -/
theorem test_derive_key_a_empty :
    (after 0x08 (withBytes kB [] [])).map (·.mem.key) = some (List.replicate 16 0) := by
  decide +kernel

/-- spec/95_test_vectors.md DK-6. -/
theorem test_derive_key_b :
    (after 0x208 (withBytes [] [] [0xC3, 0xA9, 0])).map (·.mem.key) =
      some [0xC3, 0xA9, 0, 0xC3, 0xA9, 0, 0xC3, 0xA9] := by
  decide +kernel

/-- spec/95_test_vectors.md IV-4. -/
theorem test_gen_iv_a : ivAfter 0x9 (withTime 1700000000000 0) = some (0, bytes iv16, 1) := by decide +kernel

/-- spec/95_test_vectors.md IV-12. -/
theorem test_gen_iv_a_wraps :
    ivAfter 0x9 (withTime 1700000000000 0xFFFFFFFFFFFFFFFF) =
      some (0, bytes [0x35, 0x3E, 0x02, 0xC6, 0xF6, 0x00, 0xBD, 0x10, 0xD7, 0xF1, 0xC9, 0x7D, 0x1C, 0xB5, 0xF8,
      0x6A], 0) := by
  decide +kernel

/-- spec/95_test_vectors.md IV-6. -/
theorem test_gen_iv_b : ivAfter 0x209 (withTime 1700000000000 1) = some (0, bytes iv8, 2) := by decide +kernel

/-- spec/95_test_vectors.md IV-11. -/
theorem test_gen_iv_b_largest_time :
    ivAfter 0x209 (withTime 0xFFFFFFFFFFFFFFFF 0) =
      some (0, bytes [0x00, 0x00, 0x00, 0x00, 0x3F, 0x80, 0x1F, 0xC0], 1) := by
  decide +kernel

/-- spec/95_test_vectors.md A-KE-1, the last round key. -/
theorem test_a_keyexp :
    (after 0x10 (withBytes [0x2B, 0x7E, 0x15, 0x16, 0x28, 0xAE, 0xD2, 0xA6, 0xAB, 0xF7, 0x15, 0x88, 0x09, 0xCF,
      0x4F, 0x3C] [] [])).map (·.mem.dout.drop 160) =
      some (bytes [0xD0, 0x14, 0xF9, 0xA8, 0xC9, 0xEE, 0x25, 0x89, 0xE1, 0x3F, 0x0C, 0xC8, 0xB6, 0x63, 0x0C, 0xA6]) := by
  decide +kernel

/-- spec/95_test_vectors.md A-KE-5. -/
theorem test_a_keyexp_key_length :
    bytesAfter 0x00000010 (withBytes kB [] []) = some (1, bytes []) := by
  decide +kernel

/-- spec/95_test_vectors.md A-BL-4. -/
theorem test_a_block :
    bytesAfter 0x00000011 (withBytes [0x00, 0x01, 0x02, 0x03, 0x04, 0x05, 0x06, 0x07, 0x08, 0x09, 0x0A, 0x0B, 0x0C,
      0x0D, 0x0E, 0x0F] [] [0x00, 0x11, 0x22, 0x33, 0x44, 0x55, 0x66, 0x77, 0x88, 0x99, 0xAA, 0xBB, 0xCC, 0xDD,
      0xEE, 0xFF]) = some (0, bytes [0x69, 0xC4, 0xE0, 0xD8, 0x6A, 0x7B, 0x04, 0x30, 0xD8, 0xCD, 0xB7, 0x80, 0x70,
      0xB4, 0xC5, 0x5A]) := by
  decide +kernel

/-- spec/95_test_vectors.md A-BL-8. -/
theorem test_a_block_short :
    bytesAfter 0x00000011 (withBytes kA [] (List.replicate 15 0x00)) = some (8, bytes []) := by
  decide +kernel

/-- spec/95_test_vectors.md A-CTR-5, the second spelling. -/
theorem test_a_ctr :
    bytesAfter 0x00000112 (withBytes kA iv16 [0x30, 0x31, 0x32, 0x33, 0x34, 0x35, 0x36, 0x37, 0x38, 0x39, 0x41,
      0x42, 0x43, 0x44, 0x45, 0x46, 0x47]) =
      some (0, bytes [0xF3, 0x06, 0xAA, 0xD7, 0xA8, 0x4C, 0xD4, 0xB8, 0x08, 0x46, 0xF3, 0xBA, 0x2D, 0xEA, 0x97,
      0xBF, 0x1A]) := by
  decide +kernel

/-- spec/95_test_vectors.md A-CY-4, two blocks. -/
theorem test_a_ctr_wraps :
    bytesAfter 0x00000012 (withBytes [0x2B, 0x7E, 0x15, 0x16, 0x28, 0xAE, 0xD2, 0xA6, 0xAB, 0xF7, 0x15, 0x88, 0x09,
      0xCF, 0x4F, 0x3C] (List.replicate 16 0xFF) (List.replicate 32 0x00)) =
      some (0, bytes [0x8A, 0xF2, 0x86, 0x01, 0x42, 0xF7, 0x86, 0xF4, 0x09, 0x30, 0x7C, 0x1A, 0x3F, 0x7E, 0xAA,
      0xAC, 0x7D, 0xF7, 0x6B, 0x0C, 0x1A, 0xB8, 0x99, 0xB3, 0x3E, 0x42, 0xF0, 0x47, 0xB9, 0x1B, 0x54, 0x6F]) := by
  decide +kernel

/-- spec/95_test_vectors.md B-KS-1, the last subkey. -/
theorem test_b_keysched :
    (after 0x18 (withBytes [0x13, 0x34, 0x57, 0x79, 0x9B, 0xBC, 0xDF, 0xF1] [] [])).map (·.mem.dout.drop 90) =
      some (bytes [0xCB, 0x3D, 0x8B, 0x0E, 0x17, 0xF5]) := by
  decide +kernel

/-- spec/95_test_vectors.md B-KS-3. -/
theorem test_b_keysched_key_length :
    bytesAfter 0x00000018 (withBytes kA [] []) = some (1, bytes []) := by
  decide +kernel

/-- spec/95_test_vectors.md B-BL-1. -/
theorem test_b_block_e :
    bytesAfter 0x00000019 (withBytes [0x13, 0x34, 0x57, 0x79, 0x9B, 0xBC, 0xDF, 0xF1] [] [0x01, 0x23, 0x45, 0x67,
      0x89, 0xAB, 0xCD, 0xEF]) = some (0, bytes [0x85, 0xE8, 0x13, 0x54, 0x0F, 0x0A, 0xB4, 0x05]) := by
  decide +kernel

/-- spec/95_test_vectors.md B-BL-7. -/
theorem test_b_block_e_key_length :
    bytesAfter 0x00000019 (withBytes kA [] iv8) = some (1, bytes []) := by
  decide +kernel

/-- spec/95_test_vectors.md B-BL-1. -/
theorem test_b_block_d :
    bytesAfter 0x00000119 (withBytes [0x13, 0x34, 0x57, 0x79, 0x9B, 0xBC, 0xDF, 0xF1] [] [0x85, 0xE8, 0x13, 0x54,
      0x0F, 0x0A, 0xB4, 0x05]) = some (0, bytes [0x01, 0x23, 0x45, 0x67, 0x89, 0xAB, 0xCD, 0xEF]) := by
  decide +kernel

/-- spec/95_test_vectors.md B-BL-8. -/
theorem test_b_block_d_short :
    bytesAfter 0x00000119 (withBytes kB [] (List.replicate 7 0x00)) = some (8, bytes []) := by
  decide +kernel

/-- spec/95_test_vectors.md B-CBC-3. -/
theorem test_b_cbc_e :
    bytesAfter 0x0000001A (withBytes kB iv8 [0x31, 0x32, 0x33, 0x34, 0x35, 0x36, 0x37, 0x38]) =
      some (0, bytes [0xB0, 0xEC, 0x1B, 0xD8, 0xA6, 0xBD, 0xA9, 0x7E, 0x2D, 0x38, 0xEF, 0x59, 0x52, 0x89, 0xF2,
      0x86]) := by
  decide +kernel

/-- spec/95_test_vectors.md B-CBC-F2. -/
theorem test_b_cbc_e_iv_length :
    bytesAfter 0x0000001A (withBytes kB iv16 []) = some (2, bytes []) := by
  decide +kernel

/-- spec/95_test_vectors.md B-PAD-9. -/
theorem test_b_cbc_d :
    bytesAfter 0x0000011A (withBytes kB iv8 [0xB5, 0x30, 0xF8, 0xB1, 0x74, 0xB5, 0x5A, 0x0E]) =
      some (0, bytes [0x41, 0x41, 0x41, 0x41, 0x03]) := by
  decide +kernel

/-- spec/95_test_vectors.md B-PAD-6. -/
theorem test_b_cbc_d_pad :
    bytesAfter 0x0000011A (withBytes kB iv8 [0x3E, 0x11, 0x4B, 0x34, 0xA8, 0x9C, 0xFB, 0xC3]) = some (6, bytes []) := by
  decide +kernel

/-- spec/95_test_vectors.md SH-10. -/
theorem test_shift_e :
    textAfter 0x00000020 (withText (-2147483648) 0 0 0 [] [0x61, 0x7A]) = some (0, cells [0x63, 0x62]) := by
  decide +kernel

/-- spec/95_test_vectors.md SH-12. -/
theorem test_shift_e_passes_others :
    textAfter 0x00000020 (withText 13 0 0 0 [] [0x47, 0x72, 0xFC, 0xDF, 0x65, 0x20, 0x31, 0x32, 0x33]) =
      some (0, cells [0x54, 0x65, 0xFC, 0xDF, 0x72, 0x20, 0x31, 0x32, 0x33]) := by
  decide +kernel

/-- spec/95_test_vectors.md SH-11. -/
theorem test_shift_d :
    textAfter 0x00000120 (withText 2147483647 0 0 0 [] [0x78, 0x77]) = some (0, cells [0x61, 0x7A]) := by
  decide +kernel

/-- spec/95_test_vectors.md SH-4. -/
theorem test_shift_d_negative :
    textAfter 0x00000120 (withText (-3) 0 0 0 [] [0x45, 0x62, 0x69, 0x69, 0x6C, 0x2C, 0x20, 0x54, 0x6C, 0x6F, 0x69,
      0x61, 0x21]) = some (0, cells [0x48, 0x65, 0x6C, 0x6C, 0x6F, 0x2C, 0x20, 0x57, 0x6F, 0x72, 0x6C, 0x64, 0x21]) := by
  decide +kernel

/-- spec/95_test_vectors.md PO-3. -/
theorem test_poly_e :
    textAfter 0x00000021 (withText 0 0 0 0 [0x4B, 0x65, 0x79] [0x48, 0x65, 0x6C, 0x6C, 0x6F, 0x2C, 0x20, 0x57,
      0x6F, 0x72, 0x6C, 0x64, 0x21]) =
      some (0, cells [0x52, 0x69, 0x6A, 0x76, 0x73, 0x2C, 0x20, 0x55, 0x79, 0x76, 0x6A, 0x6E, 0x21]) := by
  decide +kernel

/-- spec/95_test_vectors.md PO-9. -/
theorem test_poly_e_bad_key :
    textAfter 0x00000021 (withText 0 0 0 0 [0x4B, 0x33, 0x59] [0x48, 0x65, 0x6C, 0x6C, 0x6F]) = some (8, cells []) := by
  decide +kernel

/-- spec/95_test_vectors.md PO-4. -/
theorem test_poly_d :
    textAfter 0x00000121 (withText 0 0 0 0 [0x4B, 0x65, 0x79] [0x52, 0x69, 0x6A, 0x76, 0x73, 0x2C, 0x20, 0x55,
      0x79, 0x76, 0x6A, 0x6E, 0x21]) =
      some (0, cells [0x48, 0x65, 0x6C, 0x6C, 0x6F, 0x2C, 0x20, 0x57, 0x6F, 0x72, 0x6C, 0x64, 0x21]) := by
  decide +kernel

/-- spec/95_test_vectors.md PO-8. -/
theorem test_poly_d_empty_key :
    textAfter 0x00000121 (withText 0 0 0 0 [] [0x48, 0x65, 0x6C, 0x6C, 0x6F]) = some (8, cells []) := by
  decide +kernel

/-- spec/95_test_vectors.md R13-1, the second spelling. -/
theorem test_rot13 :
    textAfter 0x00000122 (withText 5 0 0 0 [] [0x48, 0x65, 0x6C, 0x6C, 0x6F, 0x2C, 0x20, 0x57, 0x6F, 0x72, 0x6C,
      0x64, 0x21]) = some (0, cells [0x55, 0x72, 0x79, 0x79, 0x62, 0x2C, 0x20, 0x4A, 0x62, 0x65, 0x79, 0x71, 0x21]) := by
  decide +kernel

/-- spec/95_test_vectors.md R13-3. -/
theorem test_rot13_wraps :
    textAfter 0x00000022 (withText 0 0 0 0 [] [0x6E, 0x4E, 0x20, 0x7A, 0x5A, 0x20, 0x30, 0x39]) =
      some (0, cells [0x61, 0x41, 0x20, 0x6D, 0x4D, 0x20, 0x30, 0x39]) := by
  decide +kernel

/-- spec/95_test_vectors.md TR-12. -/
theorem test_transp_e :
    textAfter 0x00000023 (withText 0 0 0 0 [0x43, 0x41, 0x42] [0x48, 0x69, 0x2C, 0x20, 0x79, 0x6F, 0x75,
      0x21]) = some (0, cells [0x69, 0x6F, 0x5F, 0x2C, 0x75, 0x5F, 0x48, 0x79, 0x21]) := by
  decide +kernel

/-- spec/95_test_vectors.md TR-7. -/
theorem test_transp_e_equal_columns :
    textAfter 0x00000023 (withText 0 0 0 0 [0x42, 0x41, 0x42] [0x61, 0x62, 0x63, 0x64, 0x65, 0x66]) =
      some (0, cells [0x62, 0x65, 0x61, 0x64, 0x63, 0x66]) := by
  decide +kernel

/-- spec/95_test_vectors.md TR-16. -/
theorem test_transp_d :
    textAfter 0x00000123 (withText 0 0 0 0 [0x4B, 0x45, 0x59] [0x45, 0x4F, 0x52, 0x48, 0x4C, 0x4F, 0x44, 0x4C,
      0x57, 0x4C]) = some (0, cells [0x4C, 0x45, 0x57, 0x4F, 0x4F, 0x4C, 0x44, 0x52, 0x4C, 0x48]) := by
  decide +kernel

/-- spec/95_test_vectors.md TR-18. -/
theorem test_transp_d_empty_key :
    textAfter 0x00000123 (withText 0 0 0 0 [] [0x41, 0x42, 0x43]) = some (8, cells []) := by
  decide +kernel

/-- spec/95_test_vectors.md FR-3. -/
theorem test_fract_e :
    textAfter 0x00000024 (withText 0 0 0 0 [] [0x48, 0x65, 0x6C, 0x6C, 0x6F, 0x2C, 0x20, 0x57, 0x6F, 0x72, 0x6C,
      0x64, 0x21]) = some (0, cells [0x32, 0x33, 0x31, 0x35, 0x33, 0x31, 0x33, 0x31, 0x33, 0x34, 0x2C, 0x20, 0x35,
      0x32, 0x33, 0x34, 0x34, 0x32, 0x33, 0x31, 0x31, 0x34, 0x21]) := by
  decide +kernel

/-- spec/95_test_vectors.md FR-5. -/
theorem test_fract_e_folds_j :
    textAfter 0x00000024 (withText 0 0 0 0 [] [0x4A, 0x49, 0x6A]) =
      some (0, cells [0x32, 0x34, 0x32, 0x34, 0x32, 0x34]) := by
  decide +kernel

/-- spec/95_test_vectors.md FR-15. -/
theorem test_fract_d :
    textAfter 0x00000124 (withText 0 0 0 0 [] [0x33, 0x33, 0x34, 0x35, 0x35]) = some (0, cells [0x4E, 0x55, 0x35]) := by
  decide +kernel

/-- spec/95_test_vectors.md FR-10. -/
theorem test_fract_d_odd_digit :
    textAfter 0x00000124 (withText 0 0 0 0 [] [0x32, 0x33, 0x31, 0x35, 0x33, 0x31, 0x33, 0x31, 0x33, 0x34,
      0x31]) = some (0, cells [0x48, 0x45, 0x4C, 0x4C, 0x4F, 0x31]) := by
  decide +kernel

/-- spec/95_test_vectors.md PI-6. -/
theorem test_picto_e :
    textAfter 0x00000025 (withText 0 0 0 0 [] [0x24B6, 0x42]) = some (0, cells [0x24B6, 0x24B7]) := by
  decide +kernel

/-- spec/95_test_vectors.md PI-5. -/
theorem test_picto_e_lower_case :
    textAfter 0x00000025 (withText 0 0 0 0 [] [0x41, 0x5A, 0x20, 0x61, 0x7A]) =
      some (0, cells [0x24B6, 0x24CF, 0x20, 0x61, 0x7A]) := by
  decide +kernel

/-- spec/95_test_vectors.md PI-7. -/
theorem test_picto_d :
    textAfter 0x00000125 (withText 0 0 0 0 [] [0x24B6, 0x24B7]) = some (0, cells [0x41, 0x42]) := by
  decide +kernel

/-- spec/95_test_vectors.md PI-8. -/
theorem test_picto_d_not_in_table :
    textAfter 0x00000125 (withText 0 0 0 0 [] [0x24D0]) = some (0, cells [0x24D0]) := by
  decide +kernel

/-- spec/95_test_vectors.md HILL-E-4. -/
theorem test_hill_e :
    textAfter 0x00000026 (withText (-23) 29 (-24) 31 [] [0x48, 0x45, 0x4C, 0x50]) =
      some (0, cells [0x48, 0x49, 0x41, 0x54]) := by
  decide +kernel

/-- spec/95_test_vectors.md HILL-E-3. -/
theorem test_hill_e_filler :
    textAfter 0x00000026 (withText 3 3 2 5 [] [0x41]) = some (0, cells [0x52, 0x4C]) := by
  decide +kernel

/-- spec/95_test_vectors.md HILL-D-9. -/
theorem test_hill_d :
    textAfter 0x00000126 (withText 3 3 2 5 [] [0x48, 0x49, 0x41]) = some (0, cells [0x48, 0x45, 0x42, 0x5A]) := by
  decide +kernel

/-- spec/95_test_vectors.md HILL-D-8. -/
theorem test_hill_d_no_inverse :
    textAfter 0x00000126 (withText 2 4 6 8 [] []) = some (7, cells []) := by
  decide +kernel

/-- spec/95_test_vectors.md RAIL-E-9. -/
theorem test_rail_e :
    textAfter 0x00000027 (withText 4 0 0 0 [] [0x61, 0x62, 0x63, 0x64, 0x65, 0x66, 0x67, 0x68, 0x69, 0x6A]) =
      some (0, cells [0x61, 0x67, 0x62, 0x66, 0x68, 0x63, 0x65, 0x69, 0x64, 0x6A]) := by
  decide +kernel

/-- spec/95_test_vectors.md RAIL-E-6. -/
theorem test_rail_e_negative :
    textAfter 0x00000027 (withText (-5) 0 0 0 [] [0x48, 0x45, 0x4C, 0x4C, 0x4F]) =
      some (0, cells [0x48, 0x45, 0x4C, 0x4C, 0x4F]) := by
  decide +kernel

/-- spec/95_test_vectors.md RAIL-D-3. -/
theorem test_rail_d :
    textAfter 0x00000127 (withText 3 0 0 0 [] [0x48, 0x4F, 0x52, 0x45, 0x4C, 0x20, 0x4F, 0x4C, 0x4C, 0x57,
      0x44]) = some (0, cells [0x48, 0x45, 0x4C, 0x4C, 0x4F, 0x20, 0x57, 0x4F, 0x52, 0x4C, 0x44]) := by
  decide +kernel

/-- spec/95_test_vectors.md RAIL-E-8. -/
theorem test_rail_d_many_rails :
    textAfter 0x00000127 (withText 10 0 0 0 [] [0x48, 0x45, 0x4C, 0x4C, 0x4F]) =
      some (0, cells [0x48, 0x45, 0x4C, 0x4C, 0x4F]) := by
  decide +kernel

/-- spec/95_test_vectors.md MU-7. -/
theorem test_mult_e :
    textAfter 0x00000028 (withText (-1) 0 0 0 [] [0x61, 0x62, 0x63]) = some (0, cells [0x61, 0x7A, 0x79]) := by
  decide +kernel

/-- spec/95_test_vectors.md MU-9. -/
theorem test_mult_e_not_injective :
    textAfter 0x00000028 (withText 13 0 0 0 [] [0x48, 0x65, 0x6C, 0x6C, 0x6F]) =
      some (0, cells [0x4E, 0x61, 0x6E, 0x6E, 0x61]) := by
  decide +kernel

/-- spec/95_test_vectors.md MU-4. -/
theorem test_mult_d :
    textAfter 0x00000128 (withText 7 0 0 0 [] [0x61, 0x68, 0x6F, 0x20, 0x46, 0x4D, 0x54]) =
      some (0, cells [0x61, 0x62, 0x63, 0x20, 0x58, 0x59, 0x5A]) := by
  decide +kernel

/-- spec/95_test_vectors.md MU-15. -/
theorem test_mult_d_no_inverse :
    textAfter 0x00000128 (withText 26 0 0 0 [] []) = some (7, cells []) := by
  decide +kernel

/-- spec/95_test_vectors.md PA-1, the second spelling. -/
theorem test_pass :
    textAfter 0x00000129 (withText 0 0 0 0 [] [0x57, 0xF6, 0x72, 0x6C, 0x64, 0x21, 0x20, 0x31, 0x32, 0x33]) =
      some (0, cells [0x57, 0xF6, 0x72, 0x6C, 0x64, 0x21, 0x20, 0x31, 0x32, 0x33]) := by
  decide +kernel

/-- spec/95_test_vectors.md EN-1. -/
theorem test_env_pack_a :
    bytesAfter 0x00000030 (withBytes [] iv16 [0x8B, 0x52, 0xF4, 0x88, 0xF3]) =
      some (0, bytes [0x35, 0x3E, 0x02, 0xC6, 0xC9, 0x80, 0xA2, 0xD0, 0xD8, 0x0E, 0x76, 0x83, 0x1F, 0x4B, 0x17,
      0x95, 0x8B, 0x52, 0xF4, 0x88, 0xF3]) := by
  decide +kernel

/-- spec/95_test_vectors.md EN-4. -/
theorem test_env_pack_a_iv_length :
    bytesAfter 0x00000030 (withBytes [] iv8 []) = some (2, bytes []) := by
  decide +kernel

/-- spec/95_test_vectors.md EN-3. -/
theorem test_env_pack_b :
    bytesAfter 0x00000230 (withBytes [] [0x00, 0x01, 0x02, 0x03, 0x04, 0x05, 0x06, 0x07] [0xAA, 0xBB]) =
      some (0, bytes [0x00, 0x01, 0x02, 0x03, 0x04, 0x05, 0x06, 0x07, 0xAA, 0xBB]) := by
  decide +kernel

/-- spec/95_test_vectors.md EN-8. -/
theorem test_env_unpack_a :
    (after 0x31 (withBytes [] iv8 [0x00, 0x01, 0x02, 0x03, 0x04, 0x05, 0x06, 0x07, 0x08, 0x09, 0x0A, 0x0B, 0x0C,
      0x0D, 0x0E, 0x0F])).map (fun t => (t.status, t.mem.iv, t.mem.dout)) =
      some (0, bytes [0x00, 0x01, 0x02, 0x03, 0x04, 0x05, 0x06, 0x07, 0x08, 0x09, 0x0A, 0x0B, 0x0C, 0x0D, 0x0E,
      0x0F], bytes []) := by
  decide +kernel

/-- spec/95_test_vectors.md EN-9. -/
theorem test_env_unpack_a_short :
    (after 0x31 (withBytes [] (List.replicate 8 0x09) [0x00, 0x01, 0x02, 0x03, 0x04, 0x05, 0x06, 0x07, 0x08, 0x09,
      0x0A, 0x0B, 0x0C, 0x0D, 0x0E])).map (fun t => (t.status, t.mem.iv, t.mem.dout)) =
      some (4, bytes (List.replicate 8 0x09), bytes []) := by
  decide +kernel

/-- spec/95_test_vectors.md EN-10. -/
theorem test_env_unpack_b :
    (after 0x231 (withBytes [] [] [0x00, 0x01, 0x02, 0x03, 0x04, 0x05, 0x06, 0x07, 0x08, 0x09, 0x0A, 0x0B, 0x0C,
      0x0D, 0x0E])).map (fun t => (t.status, t.mem.iv, t.mem.dout)) =
      some (0, bytes [0x00, 0x01, 0x02, 0x03, 0x04, 0x05, 0x06, 0x07], bytes [0x08, 0x09, 0x0A, 0x0B, 0x0C, 0x0D,
      0x0E]) := by
  decide +kernel

/-- spec/95_test_vectors.md B64-6. -/
theorem test_b64_e :
    bytesAfter 0x00000032 (withBytes [] [] [0x66, 0x6F, 0x6F, 0x62, 0x61]) =
      some (0, bytes [0x5A, 0x6D, 0x39, 0x76, 0x59, 0x6D, 0x45, 0x3D]) := by
  decide +kernel

/-- spec/95_test_vectors.md B64-9. -/
theorem test_b64_e_last_characters :
    bytesAfter 0x00000032 (withBytes [] [] [0xFB, 0xFF]) = some (0, bytes [0x2B, 0x2F, 0x38, 0x3D]) := by
  decide +kernel

/-- spec/95_test_vectors.md B64-15. -/
theorem test_b64_d :
    bytesAfter 0x00000132 (withBytes [] [] [0x5A, 0x68, 0x3D, 0x3D]) = some (0, bytes [0x66]) := by
  decide +kernel

/-- spec/95_test_vectors.md B64-21. -/
theorem test_b64_d_early_pad :
    bytesAfter 0x00000132 (withBytes [] [] [0x5A, 0x67, 0x3D, 0x3D, 0x5A, 0x6D, 0x39, 0x76]) = some (3, bytes []) := by
  decide +kernel

/-- spec/60_exceptions.md R345: ERR_CAP. -/
theorem test_b64_e_capacity :
    bytesAfter 0x32 (tight 7 (withBytes [] [] [1, 2, 3, 4])) = some (9, []) := by
  decide +kernel

/-- spec/95_test_vectors.md section 9, MOVB. -/
theorem test_movb :
    (after 0x38 (withBytes [] [] [9])).map (fun t => (t.status, t.mem.din, t.mem.dout)) = some (0, [1, 2], [1, 2]) := by
  decide +kernel

/-- spec/95_test_vectors.md section 9, MOVT. -/
theorem test_movt :
    (after 0x39 (withText 0 0 0 0 [] [])).map (fun t => (t.status, t.mem.tin, t.mem.tout)) =
      some (0, [0x41], [0x41]) := by
  decide +kernel

/-! The host's transactions. -/

/-- spec/95_test_vectors.md section 11, the word 0x10000012. -/
theorem test_illegal_word_changes_status_only :
    after 0x10000012 (withBytes kA iv8 [3]) = some { withBytes kA iv8 [3] with status := 10 } := by
  decide +kernel

/-- spec/10_state.md R34. -/
theorem test_write_to_status_is_ignored :
    nextOf? (perform (.writeReg 1 7) (withBytes kA [] [])) = some (withBytes kA [] []) := by
  decide +kernel

/-- spec/10_state.md R30. -/
theorem test_write_to_pv :
    (nextOf? (perform (.writeReg 6 7) (withTable 1 5 []))).map (·.pv) = some 0x700000005 := by
  decide +kernel

/-- spec/10_state.md R32. -/
theorem test_length_register :
    (withBytes kA iv8 [3]).readReg 0x0A = 16 ∧ (withBytes kA iv8 [3]).readReg 0x0B = 8 ∧
      (withBytes kA iv8 [3]).readReg 0x0C = 1 := by
  decide +kernel

/-- spec/20_memory.md R64. -/
theorem test_load_too_long_is_refused :
    nextOf? (perform (.loadBytes .key (List.replicate 33 0)) State.reset) = none := by
  decide +kernel

/-- spec/20_memory.md R65. -/
theorem test_read_buffer :
    (nextOf? (perform (.readBytes .key) (withBytes [7, 8] [] []))).map (·.lastRead) = some (.bytes [7, 8]) := by
  decide +kernel

/-- spec/20_memory.md R70: with nothing pending nothing changes. -/
theorem test_idle_step : nextOf? (step (withBytes kA [] [])) = some (withBytes kA [] []) := by decide +kernel

/-- spec/70_reset_and_hazards.md R380, R381. -/
theorem test_reset_keeps_the_queue :
    (nextOf? (step { withBytes kA iv8 [3] with pending := [.reset, .readReg 1] })).map (fun t => (t.mem,
      t.pending)) = some (Memory.empty, [.readReg 1]) := by
  decide +kernel

/-! Witnesses: for every statement that has hypotheses, a concrete state and operands that meet all of them, for each
clause; `eq_next_nextOf` turns a next state that is computed into the equation a hypothesis asks for. -/

/-- GmulIsFieldMultiplication: a byte that is not 0. -/
theorem witness_gmul_nonzero : (0x53 : Byte) ≠ 0 := by decide

/-- BitpermSelectsInputBits at width 64 with entries 1 and 64, and at width 1 with a table of 64 entries. -/
theorem witness_bitperm :
    (1 ≤ (withTable 64 0 [1, 64]).p0.toNat ∧ (withTable 64 0 [1, 64]).p0.toNat ≤ 64 ∧
      (withTable 64 0 [1, 64]).mem.ptab.length ≤ 64 ∧
      (withTable 64 0 [1, 64]).mem.ptab.all (fun e => 1 ≤ e.toNat && e.toNat ≤ 64) = true) ∧
    1 ≤ (withTable 1 1 (List.replicate 64 1)).p0.toNat ∧ (withTable 1 1 (List.replicate 64 1)).p0.toNat ≤ 64 ∧
      (withTable 1 1 (List.replicate 64 1)).mem.ptab.length ≤ 64 ∧
      (withTable 1 1 (List.replicate 64 1)).mem.ptab.all (fun e => 1 ≤ e.toNat && e.toNat ≤ 1) = true := by
  decide +kernel

/-- BitpermSelectsInputBits, its failures: widths 0 and 65, an entry 0 and an entry one above the width. -/
theorem witness_bitperm_failures :
    (withTable 0 0 []).p0.toNat < 1 ∧ 64 < (withTable 65 0 []).p0.toNat ∧
    ((0 : Byte) ∈ (withTable 4 0 [0]).mem.ptab ∧ (0 : Byte).toNat < 1) ∧
    ((5 : Byte) ∈ (withTable 4 0 [5]).mem.ptab ∧ (withTable 4 0 [5]).p0.toNat < (5 : Byte).toNat) := by
  decide +kernel

/-- IvctrCountsGenIvCommands: two GEN_IV commands and a load, from the state after reset with a time stated. -/
theorem witness_ivctr_counts :
    noReset [command .genIvA, .loadBytes .din [1], command .genIvB] = true ∧
      performAll [command .genIvA, .loadBytes .din [1], command .genIvB] (withTime 5 0) =
        .next (nextOf (performAll [command .genIvA, .loadBytes .din [1], command .genIvB] (withTime 5 0))) :=
  ⟨by decide +kernel, eq_next_nextOf _ (by decide +kernel)⟩

/-- The state after one GEN_IV.A at time 5. -/
def genOnceA : State := nextOf (exec .genIvA (withTime 5 0))

/-- The state after one GEN_IV.B at time 5. -/
def genOnceB : State := nextOf (exec .genIvB (withTime 5 0))

/-- GenIvNeverRepeatsWithinMillisecond, GEN_IV.A: a GEN_IV.B stands between the two. -/
theorem witness_gen_iv_a_twice :
    noReset [command .genIvB] = true ∧ countGenIv [command .genIvB] < 2 ^ 64 - 1 ∧
      exec .genIvA (withTime 5 0) = .next genOnceA ∧
      performAll [command .genIvB] genOnceA = .next (nextOf (performAll [command .genIvB] genOnceA)) ∧
      (nextOf (performAll [command .genIvB] genOnceA)).sampleTime = (withTime 5 0).sampleTime ∧
      exec .genIvA (nextOf (performAll [command .genIvB] genOnceA)) =
        .next (nextOf (exec .genIvA (nextOf (performAll [command .genIvB] genOnceA)))) :=
  ⟨by decide +kernel, by decide +kernel, eq_next_nextOf _ (by decide +kernel), eq_next_nextOf _ (by decide +kernel),
    by decide +kernel, eq_next_nextOf _ (by decide +kernel)⟩

/-- GenIvNeverRepeatsWithinMillisecond, GEN_IV.B: nothing stands between the two. -/
theorem witness_gen_iv_b_twice :
    noReset [] = true ∧ countGenIv [] < 2 ^ 64 - 1 ∧ exec .genIvB (withTime 5 0) = .next genOnceB ∧
      performAll [] genOnceB = .next genOnceB ∧ genOnceB.sampleTime = (withTime 5 0).sampleTime ∧
      exec .genIvB genOnceB = .next (nextOf (exec .genIvB genOnceB)) :=
  ⟨by decide +kernel, by decide +kernel, eq_next_nextOf _ (by decide +kernel), rfl, by decide +kernel,
    eq_next_nextOf _ (by decide +kernel)⟩

/-- KeyExpansionFollowsRecurrence: a key of 16 bytes, and the first and last computed byte and round. -/
theorem witness_key_expansion :
    (bytes kA).length = 16 ∧ (16 ≤ 16 ∧ 16 < 176) ∧ (16 ≤ 175 ∧ 175 < 176) ∧ 0 ≤ 10 ∧ 10 ≤ 10 := by
  decide +kernel

/-- KeyexpAndBlockOfCipherA: both lengths 16; a key of 15 bytes; a block of 17 bytes. -/
theorem witness_cipher_a_lengths :
    ((withBytes kA [] kA).mem.key.length = 16 ∧ (withBytes kA [] kA).mem.din.length = 16) ∧
    (withBytes (List.replicate 15 0) [] []).mem.key.length ≠ 16 ∧
    ((withBytes kA [] []).mem.key.length = 16 ∧ (withBytes kA [] (List.replicate 17 0)).mem.din.length ≠ 16) := by
  decide +kernel

/-- CounterModeXorsKeystream and CipherModesRoundTrip: key and IV of 16 bytes and one byte of text; a key of 8
bytes; an IV of 8 bytes. -/
theorem witness_counter_mode :
    ((withBytes kA iv16 [1]).mem.key.length = 16 ∧ (withBytes kA iv16 [1]).mem.iv.length = 16 ∧
      0 < (withBytes kA iv16 [1]).mem.din.length) ∧
    (withBytes kB iv16 []).mem.key.length ≠ 16 ∧
    ((withBytes kA iv8 []).mem.key.length = 16 ∧ (withBytes kA iv8 []).mem.iv.length ≠ 16) := by
  decide +kernel

/-- KeyschedAndBlockOfCipherB: both lengths 8; a key of 16 bytes; a block of 7 bytes. -/
theorem witness_cipher_b_lengths :
    ((withBytes kB [] iv8).mem.key.length = 8 ∧ (withBytes kB [] iv8).mem.din.length = 8) ∧
    (withBytes kA [] []).mem.key.length ≠ 8 ∧
    ((withBytes kB [] (List.replicate 7 0)).mem.key.length = 8 ∧
      (withBytes kB [] (List.replicate 7 0)).mem.din.length ≠ 8) := by
  decide +kernel

/-- KeyLowBitsDoNotEnterSchedule: two different keys that differ in one low bit (B-KS-2). -/
theorem witness_key_low_bits :
    (bytes [0x13, 0x34, 0x57, 0x79, 0x9B, 0xBC, 0xDF, 0xF1]).length = 8 ∧
    (bytes [0x13, 0x34, 0x57, 0x79, 0x9B, 0xBC, 0xDF, 0xF0]).length = 8 ∧
    bytes [0x13, 0x34, 0x57, 0x79, 0x9B, 0xBC, 0xDF, 0xF1] ≠ bytes [0x13, 0x34, 0x57, 0x79, 0x9B, 0xBC, 0xDF, 0xF0] ∧
    ∀ i, i < 8 → (bytes [0x13, 0x34, 0x57, 0x79, 0x9B, 0xBC, 0xDF, 0xF1]).getD i 0 >>> 1 =
      (bytes [0x13, 0x34, 0x57, 0x79, 0x9B, 0xBC, 0xDF, 0xF0]).getD i 0 >>> 1 := by
  decide +kernel

/-- BlockDirectionsAreInverse: a block of 8 bytes. -/
theorem witness_block : (bytes iv8).length = 8 := by decide +kernel

/-- UnpadRemovesExactlyThePad: a block with the pad 03 03 03, one with a whole block of padding, and one without. -/
theorem witness_unpad :
    (bytes [0x41, 0x41, 0x41, 0x41, 3, 3, 3, 3]).length % 8 = 0 ∧
    unpad7 (bytes [0x41, 0x41, 0x41, 0x41, 3, 3, 3, 3]) = some (bytes [0x41, 0x41, 0x41, 0x41, 3]) ∧
    unpad7 (List.replicate 8 8) = some [] ∧
    unpad7 (bytes [0x41, 0x41, 0x41, 0x41, 5, 4, 4, 4]) = none := by
  decide +kernel

/-- ChainedEncryptionChainsBlocks and CipherModesRoundTrip: the result fits exactly; a key of 16 bytes; an IV of 16
bytes; a capacity one too small. -/
theorem witness_chained_encryption :
    ((withBytes kB iv8 [1]).mem.key.length = 8 ∧ (withBytes kB iv8 [1]).mem.iv.length = 8 ∧
      (withBytes kB iv8 [1]).mem.din.length + (8 - (withBytes kB iv8 [1]).mem.din.length % 8) ≤
        (tight 8 (withBytes kB iv8 [1])).cfg.bufCap) ∧
    (withBytes kA iv8 []).mem.key.length ≠ 8 ∧ (withBytes kB iv16 []).mem.iv.length ≠ 8 ∧
    (tight 7 (withBytes kB iv8 [1])).cfg.bufCap <
      (withBytes kB iv8 [1]).mem.din.length + (8 - (withBytes kB iv8 [1]).mem.din.length % 8) := by
  decide +kernel

/-- The block that B-PAD-9's ciphertext recovers (spec/95_test_vectors.md). -/
def recovered : List Byte := bytes [0x41, 0x41, 0x41, 0x41, 3, 3, 3, 3]

/-- The state of B-PAD-9 (spec/95_test_vectors.md). -/
def padState : State := withBytes kB iv8 [0xB5, 0x30, 0xF8, 0xB1, 0x74, 0xB5, 0x5A, 0x0E]

/-- ChainedDecryptionStripsPad: the one block of B-PAD-9, whose recovered block has a pad. -/
theorem witness_chained_decryption :
    padState.mem.key.length = 8 ∧ padState.mem.iv.length = 8 ∧ padState.mem.din.length % 8 = 0 ∧
      recovered.length = padState.mem.din.length ∧
      blockAt 8 recovered 0 = xorb (blockB (keyschedB padState.mem.key) (blockAt 8 padState.mem.din 0) .dec)
        padState.mem.iv ∧
      unpad7 recovered = some (bytes [0x41, 0x41, 0x41, 0x41, 3]) := by
  decide +kernel

/-- ChainedDecryptionStripsPad, every block: the only j with 8 * j below the length of one block is 0. -/
theorem witness_chained_decryption_blocks : ∀ j, 8 * j < recovered.length → j = 0 := by
  intro j h
  have : recovered.length = 8 := by decide +kernel
  omega

/-- ChainedDecryptionStripsPad: the empty text, which recovers nothing to unpad; a key of 16 bytes; an IV of 16 bytes;
7 bytes of text. -/
theorem witness_chained_decryption_failures :
    ((withBytes kB iv8 []).mem.din.length % 8 = 0 ∧ unpad7 [] = none) ∧ (withBytes kA iv8 []).mem.key.length ≠ 8 ∧
    ((withBytes kB iv16 []).mem.key.length = 8 ∧ (withBytes kB iv16 []).mem.iv.length ≠ 8) ∧
    (withBytes kB iv8 (List.replicate 7 0)).mem.din.length % 8 ≠ 0 := by
  decide +kernel

/-- Rot13IsShiftByThirteen, last clause: P0 = 13. -/
theorem witness_rot13 : (withText 13 0 0 0 [] []).p0 = 13 := by decide +kernel

/-- PolyShiftsByRepeatingKey and PolyDirectionsAreInverse: the key "Key" and a text; the empty key; the key "K3Y". -/
theorem witness_poly :
    ((withText 0 0 0 0 [0x4B, 0x65, 0x79] [0x48]).mem.tkey ≠ [] ∧
      (withText 0 0 0 0 [0x4B, 0x65, 0x79] [0x48]).mem.tkey.all islet = true ∧
      0 < (withText 0 0 0 0 [0x4B, 0x65, 0x79] [0x48]).mem.tin.length) ∧
    (withText 0 0 0 0 [] []).mem.tkey = [] ∧
    ((0x33 : Cell) ∈ (withText 0 0 0 0 [0x4B, 0x33, 0x59] []).mem.tkey ∧ islet 0x33 = false) := by
  decide +kernel

/-- TransposeReadsColumnsInKeyOrder and TransposeRoundTripDropsSpacesAndFiller: the text "A BC" without its space, a grid
of 2 rows and 2 columns that just fits; the empty key; a capacity one too small. -/
theorem witness_transp_e :
    (cells [0x41, 0x42, 0x43] = (withText 0 0 0 0 [0x42, 0x41] [0x41, 0x20, 0x42, 0x43]).mem.tin.filter (· != 0x20#32) ∧
      (withText 0 0 0 0 [0x42, 0x41] []).mem.tkey ≠ [] ∧
      2 = ((cells [0x41, 0x42, 0x43]).length + (withText 0 0 0 0 [0x42, 0x41] []).mem.tkey.length - 1) /
        (withText 0 0 0 0 [0x42, 0x41] []).mem.tkey.length ∧
      2 * (withText 0 0 0 0 [0x42, 0x41] []).mem.tkey.length ≤
        (tight 4 (withText 0 0 0 0 [0x42, 0x41] [0x41, 0x20, 0x42, 0x43])).cfg.bufCap) ∧
    (withText 0 0 0 0 [] [0x41]).mem.tkey = [] ∧
    (tight 3 (withText 0 0 0 0 [0x42, 0x41] [0x41, 0x20, 0x42, 0x43])).cfg.bufCap <
      2 * (withText 0 0 0 0 [0x42, 0x41] []).mem.tkey.length := by
  decide +kernel

/-- TransposeRoundTripDropsSpacesAndFiller, last clause: a text with neither space nor filler. -/
theorem witness_transp_round_trip :
    (withText 0 0 0 0 [0x41] [0x41, 0x42]).mem.tin.all
      (fun c => c != 0x20 && c != (withText 0 0 0 0 [0x41] []).cfg.fillT) = true := by
  decide +kernel

/-- TransposeDecryptFillsColumns: 3 cells under a key of 2, so 2 rows with one cell missing; the empty key. -/
theorem witness_transp_d :
    (2 = ((withText 0 0 0 0 [0x42, 0x41] [0x41, 0x42, 0x43]).mem.tin.length + 2 - 1) / 2 ∧
      (withText 0 0 0 0 [0x42, 0x41] [0x41, 0x42, 0x43]).mem.tkey.length = 2 ∧
      (withText 0 0 0 0 [0x42, 0x41] [0x41, 0x42, 0x43]).mem.tkey ≠ []) ∧
    (withText 0 0 0 0 [] [0x41]).mem.tkey = [] := by
  decide +kernel

/-- FractionationUsesTheSquare: one letter that just fits, and a capacity one too small; the largest coordinates; a pair
that is none ('1' and '6'). -/
theorem witness_fract :
    ((withText 0 0 0 0 [] [0x4A]).mem.tin.length + (withText 0 0 0 0 [] [0x4A]).mem.tin.countP islet ≤
        (tight 2 (withText 0 0 0 0 [] [0x4A])).cfg.bufCap) ∧
    ((tight 1 (withText 0 0 0 0 [] [0x4A])).cfg.bufCap <
      (withText 0 0 0 0 [] [0x4A]).mem.tin.length + (withText 0 0 0 0 [] [0x4A]).mem.tin.countP islet) ∧
    (4 < 5) ∧
    ¬((0x31 ≤ (0x31 : Cell).toNat ∧ (0x31 : Cell).toNat ≤ 0x35) ∧
      (0x31 ≤ (0x36 : Cell).toNat ∧ (0x36 : Cell).toNat ≤ 0x35)) := by
  decide +kernel

/-- FractionationRoundTripFoldsCase: "J6" has no digit 1 to 5 and fits. -/
theorem witness_fract_round_trip :
    (withText 0 0 0 0 [] [0x4A, 0x36]).mem.tin.all (fun c => !(decide (0x31 ≤ c.toNat) && decide (c.toNat ≤ 0x35))) =
      true ∧
    (withText 0 0 0 0 [] [0x4A, 0x36]).mem.tin.length + (withText 0 0 0 0 [] [0x4A, 0x36]).mem.tin.countP islet ≤
      (withText 0 0 0 0 [] [0x4A, 0x36]).cfg.bufCap := by
  decide +kernel

/-- PictogramsAndPassThrough and PictogramsRoundTrip: the default table is legal; 'Z' is no symbol; the last symbol
stands in a text. -/
theorem witness_picto :
    State.reset.cfg.pictoWellFormed = true ∧ (withText 0 0 0 0 [] [0x5A]).mem.tin[0]? = some 0x5A ∧
    (0x5A : Cell) ∉ State.reset.cfg.picto ∧ State.reset.cfg.picto[25]? = some 0x24CF ∧
    (withText 0 0 0 0 [] [0x24CF]).mem.tin[0]? = some 0x24CF := by
  decide +kernel

/-- HillMapsPairsByMatrix and HillRoundTripKeepsLetters: the text "He" with an even number of letters and "h" with an
odd one, which takes the filler; an invertible matrix (a determinant of 9) and a capacity that just fits; a determinant
of 18; a capacity one too small. -/
theorem witness_hill :
    ([7, 4] = ((withText 3 3 2 5 [] [0x48, 0x65]).mem.tin.filter islet).map idx ∧
      [7, 4] = (if [7, 4].length % 2 = 1 then [7, 4] ++ [State.reset.cfg.fillH.val] else [7, 4])) ∧
    ([7] = ((withText 3 3 2 5 [] [0x68, 0x21]).mem.tin.filter islet).map idx ∧
      [7, 23] = (if [7].length % 2 = 1 then [7] ++ [State.reset.cfg.fillH.val] else [7])) ∧
    [7, 4].length ≤ (tight 2 (withText 3 3 2 5 [] [0x48, 0x65])).cfg.bufCap ∧
    Int.gcd (hillDet (withText 3 3 2 5 [] [])) 26 = 1 ∧ Int.gcd (hillDet (withText 2 4 6 8 [] [])) 26 ≠ 1 ∧
    (tight 1 (withText 3 3 2 5 [] [0x48, 0x65])).cfg.bufCap < [7, 4].length := by
  decide +kernel

/-- HillRoundTripKeepsLetters, last clause: a text of two upper-case letters. -/
theorem witness_hill_upper_case :
    (withText 3 3 2 5 [] [0x41, 0x5A]).mem.tin.length % 2 = 0 ∧
    (withText 3 3 2 5 [] [0x41, 0x5A]).mem.tin.all (fun c => decide (0x41 ≤ c.toNat) && decide (c.toNat ≤ 0x5A)) =
      true := by
  decide +kernel

/-- RailReadsRailByRail: P0 = 1 and the most negative P0; P0 = 2. -/
theorem witness_rail :
    (withText 1 0 0 0 [] []).p0.toInt < 2 ∧ (withText (-2147483648) 0 0 0 [] []).p0.toInt < 2 ∧
    ((withText 2 0 0 0 [] [0x41]).p0.toInt = (2 : Nat) ∧ 2 ≤ 2) := by
  decide +kernel

/-- RailReadsRailByRail, the bounce pattern: `railOf 2` is the rail the statement asks for at N = 2. -/
theorem witness_rail_pattern : ∀ p, railOf 2 p =
    if p % (2 * (2 - 1)) < 2 then p % (2 * (2 - 1)) else 2 * (2 - 1) - p % (2 * (2 - 1)) :=
  fun _ => rfl

/-- MultMultipliesLetterIndices and MultDirectionsAreInverse: keys with an inverse, one negative; keys without. -/
theorem witness_mult :
    Int.gcd (withText 5 0 0 0 [] []).p0.toInt 26 = 1 ∧ Int.gcd (withText (-1) 0 0 0 [] []).p0.toInt 26 = 1 ∧
    Int.gcd (withText 13 0 0 0 [] []).p0.toInt 26 ≠ 1 ∧ Int.gcd (withText 0 0 0 0 [] []).p0.toInt 26 ≠ 1 := by
  decide +kernel

/-- EnvelopePackPrependsIv: envelopes that just fit; the other size's IV; a capacity one too small. -/
theorem witness_env_pack :
    ((withBytes [] iv16 [1]).mem.iv.length = 16 ∧
      16 + (withBytes [] iv16 [1]).mem.din.length ≤ (tight 17 (withBytes [] iv16 [1])).cfg.bufCap) ∧
    ((withBytes [] iv8 [1]).mem.iv.length = 8 ∧
      8 + (withBytes [] iv8 [1]).mem.din.length ≤ (tight 9 (withBytes [] iv8 [1])).cfg.bufCap) ∧
    (withBytes [] iv8 []).mem.iv.length ≠ 16 ∧ (withBytes [] iv16 []).mem.iv.length ≠ 8 ∧
    (tight 16 (withBytes [] iv16 [1])).cfg.bufCap < 16 + (withBytes [] iv16 [1]).mem.din.length ∧
    (tight 8 (withBytes [] iv8 [1])).cfg.bufCap < 8 + (withBytes [] iv8 [1]).mem.din.length := by
  decide +kernel

/-- EnvelopeUnpackSplitsIv: an envelope with an empty text, and one byte of text, for both sizes; 15 and 7 bytes. -/
theorem witness_env_unpack :
    ((withBytes [] [] iv16).mem.din = bytes iv16 ++ [] ∧ (bytes iv16).length = 16) ∧
    ((withBytes [] [] (iv8 ++ [1])).mem.din = bytes iv8 ++ bytes [1] ∧ (bytes iv8).length = 8) ∧
    (withBytes [] [] (List.replicate 15 0)).mem.din.length < 16 ∧
    (withBytes [] [] (List.replicate 7 0)).mem.din.length < 8 := by
  decide +kernel

/-- EnvelopeRoundTrips: packing that fits, and an envelope that fits its own buffer, for both sizes. -/
theorem witness_env_round_trip :
    ((withBytes [] iv16 [1]).mem.iv.length = 16 ∧
      16 + (withBytes [] iv16 [1]).mem.din.length ≤ (withBytes [] iv16 [1]).cfg.bufCap) ∧
    ((withBytes [] iv8 [1]).mem.iv.length = 8 ∧
      8 + (withBytes [] iv8 [1]).mem.din.length ≤ (withBytes [] iv8 [1]).cfg.bufCap) ∧
    (16 ≤ (withBytes [] [] iv16).mem.din.length ∧
      (withBytes [] [] iv16).mem.din.length ≤ (withBytes [] [] iv16).cfg.bufCap) ∧
    (8 ≤ (withBytes [] [] iv8).mem.din.length ∧
      (withBytes [] [] iv8).mem.din.length ≤ (withBytes [] [] iv8).cfg.bufCap) := by
  decide +kernel

/-- Base64EncodesSextets and Base64RoundTrips: one byte whose text just fits, and characters of it in each of the three
ranges; a capacity one too small. -/
theorem witness_base64_encode :
    (4 * (((withBytes [] [] [0x66]).mem.din.length + 2) / 3) ≤ (tight 4 (withBytes [] [] [0x66])).cfg.bufCap ∧
      6 * 0 + 6 ≤ 8 * 1 ∧ (6 * 1 < 8 * 1 ∧ ¬6 * 1 + 6 ≤ 8 * 1) ∧ ¬6 * 2 < 8 * 1) ∧
    (tight 3 (withBytes [] [] [0x66])).cfg.bufCap < 4 * (((withBytes [] [] [0x66]).mem.din.length + 2) / 3) := by
  decide +kernel

/-- Base64DecodesStrictly and Base64RoundTrips: "Zh==", two '=' and unused bits that are not zero. -/
theorem witness_base64_decode :
    [25, 33].all (fun v => v < 64) = true ∧ 2 ≤ 2 ∧
    (withBytes [] [] [0x5A, 0x68, 0x3D, 0x3D]).mem.din = ([25] ++ [33]).map b64Char ++ List.replicate 2 0x3D ∧
    ([25, 33].length + 2) % 4 = 0 ∧ [0x66].length + 2 = 3 * (([25, 33].length + 2) / 4) ∧
    be [0x66] = [25, 33].foldl (fun n v => n * 64 + v) 0 / 4 ^ 2 ∧
    (withBytes [] [] [0x5A, 0x68, 0x3D, 0x3D]).mem.din.length ≤ (withBytes [] [] []).cfg.bufCap := by
  decide +kernel

/-- Base64DecodesStrictly, last clause: "Zm9" has the wrong length. -/
theorem witness_base64_malformed :
    ¬∃ (vals : List Nat) (pads : Nat), (∀ v ∈ vals, v < 64) ∧ pads ≤ 2 ∧
      (withBytes [] [] [0x5A, 0x6D, 0x39]).mem.din = vals.map b64Char ++ List.replicate pads 0x3D ∧
      (vals.length + pads) % 4 = 0 := by
  rintro ⟨vals, pads, -, -, h, h4⟩
  have := congrArg List.length h
  simp [withBytes, bytes] at this
  omega

/-- MacrosReturnTheMessage: a passphrase and a message whose texts just fit, for both ciphers. -/
theorem witness_macros :
    (bytes [0x61]).length ≤ (tight 24 State.reset).cfg.bufCap ∧
    4 * ((16 + (bytes [1, 2]).length + 2) / 3) ≤ (tight 24 State.reset).cfg.bufCap ∧
    4 * ((8 + ((bytes [1, 2]).length + (8 - (bytes [1, 2]).length % 8)) + 2) / 3) ≤ (tight 24 State.reset).cfg.bufCap := by
  decide +kernel

/-- DecodeOfEncodeIsIdentity: every command is well formed. -/
theorem witness_well_formed : Instr.wellFormed (.aCtr 1) = true := rfl

/-- DecodeAcceptsExactlyTheTable: the word 0x112 matches the row of A_CTR, whose mask leaves DIR free. -/
theorem witness_row_match : (0x00000112#32 &&& rowMask (.aCtr 0)) = rowMatch (.aCtr 0) := by decide

/-- StepRunsTheDecodedCommand: a command pending; a transaction that is no command pending; nothing pending. -/
theorem witness_step_runs :
    (State.reset.withFetchWord 32 0x38).pending = [.writeReg 0 0x38] ∧ decode 0x38 = .ok .movb ∧
    ({ State.reset with pending := [.reset] } : State).pending = [.reset] ∧ State.reset.pending = [] := by
  decide +kernel

/-- IllegalWordOnlySetsStatus: the word 3 pending, which no command encodes. -/
theorem witness_illegal_word :
    (State.reset.withFetchWord 32 3).pending = [.writeReg 0 3] ∧ ∀ i, (3 : Word) ≠ encode i := by
  refine ⟨by decide +kernel, fun i h => ?_⟩
  have : decode (encode i) = .error .unknownOpcode := by rw [← h]; decide +kernel
  cases i with
  | aCtr dir => revert this; revert dir; decide +kernel
  | rot13 dir => revert this; revert dir; decide +kernel
  | pass dir => revert this; revert dir; decide +kernel
  | _ => revert this; decide +kernel

/-- CommandsWriteOnlyWhatIsListed: MOVB answers a next state. -/
theorem witness_writes_only :
    exec .movb (withBytes kA iv8 [3]) = .next (nextOf (exec .movb (withBytes kA iv8 [3]))) ∧ readsTime .movb = false :=
  ⟨eq_next_nextOf _ (by decide +kernel), rfl⟩

/-- CommandsDependOnlyOnWhatIsListed: GEN_IV.A in two states that differ in KEY, and what it answers. -/
theorem witness_depends_only :
    (withTime 5 3).cfg = { withTime 5 3 with mem := { Memory.empty with key := [1] } }.cfg ∧
    (∀ x ∈ readsOf .genIvA, sameItem x (withTime 5 3) { withTime 5 3 with mem := { Memory.empty with key := [1] } }) ∧
    (withTime 5 3).sampleTime = { withTime 5 3 with mem := { Memory.empty with key := [1] } }.sampleTime ∧
    exec .genIvA (withTime 5 3) = .next (nextOf (exec .genIvA (withTime 5 3))) ∧
    exec .genIvA { withTime 5 3 with mem := { Memory.empty with key := [1] } } =
      .next (nextOf (exec .genIvA { withTime 5 3 with mem := { Memory.empty with key := [1] } })) ∧
    (nextOf (exec .genIvA (withTime 5 3))).status = 0 :=
  ⟨rfl, fun x hx => by
      simp only [readsOf, List.mem_singleton] at hx
      subst hx
      exact ⟨rfl, rfl⟩,
    rfl, eq_next_nextOf _ (by decide +kernel), eq_next_nextOf _ (by decide +kernel), by decide +kernel⟩

/-- EveryCommandEndsWithOneCode: a command that never fails. -/
theorem witness_never_fails : neverFails .movb = true := rfl

/-- FirstFailingTestIsReported: A_BLOCK with good lengths, and with a bad block; a command that cannot fail. -/
theorem witness_verdict :
    verdict .aBlock (withBytes kA [] kA) = 0 ∧ verdict .aBlock (withBytes kA [] [1]) ≠ 0 ∧ failDest .movb = none := by
  decide +kernel

/-- The column "emptied on failure" of spec/10_state.md R38, a text command that never fails among it. -/
theorem test_emptied_on_failure :
    failDest .shiftE = some .tout ∧ failDest (.pass 1) = some .tout ∧ failDest .multE = some .tout ∧
    failDest .envUnpackA = some .dout ∧ failDest .bitperm = some .rv ∧ failDest .genIvA = none := by
  decide

/-- StepKeepsInvariant: a state with the invariant whose step is a command. -/
theorem witness_invariant :
    (State.reset.withFetchWord 32 0x12).Inv ∧
    step (State.reset.withFetchWord 32 0x12) = .next (nextOf (step (State.reset.withFetchWord 32 0x12))) := by
  refine ⟨⟨by decide +kernel, by decide +kernel, ?_⟩, eq_next_nextOf _ (by decide +kernel)⟩
  show State.reset.status.toNat ≤ 10
  decide +kernel

/-- RegisterAccessByTheHost: the first and last writable register, read-only and unused numbers. -/
theorem witness_registers : (2 ≤ 2 ∧ 2 ≤ 7) ∧ (2 ≤ 7 ∧ 7 ≤ 7) ∧ (1 = 1 ∨ 8 ≤ 1) ∧ (8 = 1 ∨ 8 ≤ 8) ∧ 0x13 < 0x14 := by
  decide

/-- BufferAccessByTheHost: loads that just fit and loads one too long, a byte buffer and a cell buffer. -/
theorem witness_buffers :
    (List.replicate 32 (0 : Byte)).length ≤ State.reset.cfg.byteCap LoadByteBuf.key.buf ∧
    State.reset.cfg.byteCap LoadByteBuf.key.buf < (List.replicate 33 (0 : Byte)).length ∧
    (List.replicate 256 (0 : Cell)).length ≤ State.reset.cfg.cellCap LoadCellBuf.tkey.buf ∧
    State.reset.cfg.cellCap LoadCellBuf.tkey.buf < (List.replicate 257 (0 : Cell)).length := by
  decide +kernel

end Sys2Proof.Tests
end

section
/-! SUPPORT. How long the results of the commands are, as far as the capacity of their destination asks
(spec/10_state.md R32). -/

namespace Sys2Proof.Machine

-- Elaborating many proofs at once exhausts the memory limit of the check, as in the model's own tests.
set_option Elab.async false

/-- A list without repetition of numbers below n has at most n elements. -/
theorem length_le_of_nodup_of_lt {l : List Nat} {n : Nat} (hl : l.Nodup) (hn : ∀ x ∈ l, x < n) : l.length ≤ n := by
  have hsub : l ⊆ List.range n := fun x hx => List.mem_range.2 (hn x hx)
  simpa using (List.subperm_of_subset hl hsub).length_le

/-! Cipher A -/

/-- A word of the key expansion has at most four bytes (42_cipher_a_spn.md R163). -/
theorem nextWord_length_le (w : List Byte) (i : Nat) : (nextWord w i).length ≤ 4 := by
  simp only [nextWord, xorb_length, List.length_take]
  omega

/-- The key expansion adds at most 4 bytes for each of its forty words (42_cipher_a_spn.md R163). -/
theorem keyexpA_length_le (key : List Byte) : (keyexpA key).length ≤ key.length + 160 := by
  have grow : ∀ (ks : List Nat) (w : List Byte),
      (ks.foldl (fun w k => w ++ nextWord w (16 + 4 * k)) w).length ≤ w.length + 4 * ks.length := by
    intro ks
    induction ks with
    | nil => simp
    | cons k ks ih =>
      intro w
      have hword := nextWord_length_le w (16 + 4 * k)
      have hrest := ih (w ++ nextWord w (16 + 4 * k))
      simp only [List.foldl_cons, List.length_cons, List.length_append] at hrest ⊢
      omega
  simpa [keyexpA] using grow (List.range 40) key

/-- A block of Cipher A comes out with at most sixteen bytes (42_cipher_a_spn.md R169). -/
theorem encblockA_length_le (w blk : List Byte) : (encblockA w blk).length ≤ 16 := by
  simp [encblockA, ark]

/-- Counter mode never lengthens the text (42_cipher_a_spn.md R172). -/
theorem ctrLoop_length_le (w : List Byte) (k : Nat) (ctr data : List Byte) :
    (ctrLoop w k ctr data).length ≤ data.length := by
  induction k generalizing ctr data with
  | zero => simp [ctrLoop]
  | succ k ih =>
    have hrest := ih (inc128 ctr) (data.drop 16)
    simp only [ctrLoop, List.length_append, xorb_length, List.length_take, List.length_drop] at hrest ⊢
    omega

/-! Cipher B -/

/-- Sixteen subkeys (43_cipher_b_feistel.md R201). -/
@[simp] theorem keyschedB_length (key : List Byte) : (keyschedB key).length = 16 := by
  simp [keyschedB, tableROTS]

/-- Chained encryption gives eight bytes for each block (43_cipher_b_feistel.md R208). -/
@[simp] theorem cbcEncLoop_length (sk : List (BitVec 48)) (k : Nat) (prev q : List Byte) :
    (cbcEncLoop sk k prev q).length = 8 * k := by
  induction k generalizing prev q with
  | zero => rfl
  | succ k ih => simp only [cbcEncLoop, List.length_append, blockB_length, ih]; omega

/-- The length of the ciphertext (43_cipher_b_feistel.md R208). -/
theorem cbcEncB_length (sk : List (BitVec 48)) (iv m : List Byte) :
    (cbcEncB sk iv m).length = m.length + 8 - m.length % 8 := by
  simp only [cbcEncB, cbcEncLoop_length, pad7_length, padLen]
  omega

/-- Chained decryption gives at most eight bytes for each block (43_cipher_b_feistel.md R209). -/
theorem cbcDecLoop_length_le (sk : List (BitVec 48)) (k : Nat) (prev ct : List Byte) :
    (cbcDecLoop sk k prev ct).length ≤ 8 * k := by
  induction k generalizing prev ct with
  | zero => simp [cbcDecLoop]
  | succ k ih =>
    have hrest := ih (ct.take 8) (ct.drop 8)
    simp only [cbcDecLoop, List.length_append, xorb_length, blockB_length]
    omega

/-- The plaintext is no longer than the ciphertext (43_cipher_b_feistel.md R209). -/
theorem cbcDecB_length_le {sk : List (BitVec 48)} {iv ct m : List Byte} (h : cbcDecB sk iv ct = some m) :
    m.length ≤ ct.length := by
  have hunpad := unpad7_length_le h
  have hloop := cbcDecLoop_length_le sk (ct.length / 8) iv ct
  omega

/-! Transposition -/

/-- Inserting a column adds it and keeps the others (44_classical_1.md R244). -/
theorem insertColumn_perm (key : List Cell) (col : Nat) (order : List Nat) :
    (insertColumn key col order).Perm (col :: order) := by
  induction order with
  | nil => exact .refl _
  | cons d ds ih =>
    unfold insertColumn
    split
    · exact .refl _
    · exact (ih.cons d).trans (.swap col d ds)

/-- `colorder(key)` is an order of all the columns (44_classical_1.md R244). -/
theorem colorder_perm (key : List Cell) : (colorder key).Perm (List.range key.length) := by
  have insertAll : ∀ cols order : List Nat,
      (cols.foldl (fun order col => insertColumn key col order) order).Perm (cols ++ order) := by
    intro cols
    induction cols with
    | nil => exact fun order => .refl _
    | cons col cols ih =>
      intro order
      calc (cols.foldl (fun order col => insertColumn key col order) (insertColumn key col order)).Perm _ := ih _
        _ |>.Perm (cols ++ col :: order) := (insertColumn_perm key col order).append_left cols
        _ |>.Perm (col :: (cols ++ order)) := List.perm_middle
  simpa [colorder] using insertAll (List.range key.length) []

/-- The ciphertext of TRANSP fills the grid (44_classical_1.md R245). -/
theorem transpEnc_length (fill : Cell) (text key : List Cell) :
    (transpEnc fill text key).length = ceilDiv (stripSpaces text).length key.length * key.length := by
  simp [transpEnc, (colorder_perm key).length_eq, Nat.mul_comm]

/-- Where grid cell g of decryption stands in the ciphertext (44_classical_1.md R246). -/
def transpSource (text key : List Cell) (g : Nat) : Nat :=
  (colorder key).idxOf (g % key.length) * ceilDiv text.length key.length + g / key.length

/-- A grid cell of decryption is the ciphertext's cell at its place, else the filler (44_classical_1.md R246). -/
theorem transpGridCell_eq (fill : Cell) (text key : List Cell) (g : Nat) :
    transpGridCell fill text key g = text.getD (transpSource text key g) fill := rfl

/-- No two grid cells come from one place of the ciphertext (44_classical_1.md R246). -/
theorem transpSource_injOn (text key : List Cell) {g g' : Nat}
    (hg : g < ceilDiv text.length key.length * key.length) (hg' : g' < ceilDiv text.length key.length * key.length)
    (h : transpSource text key g = transpSource text key g') : g = g' := by
  have hm : 0 < key.length := Nat.pos_of_ne_zero fun h0 => by simp [h0] at hg
  have hrow : g / key.length < ceilDiv text.length key.length := Nat.div_lt_of_lt_mul (by rwa [Nat.mul_comm])
  have hrow' : g' / key.length < ceilDiv text.length key.length := Nat.div_lt_of_lt_mul (by rwa [Nat.mul_comm])
  have sameRow : g / key.length = g' / key.length := by
    simpa [transpSource, Nat.mul_add_mod', Nat.mod_eq_of_lt, hrow, hrow'] using
      congrArg (· % ceilDiv text.length key.length) h
  have sameColumn : g % key.length = g' % key.length := by
    have hidx : (colorder key).idxOf (g % key.length) = (colorder key).idxOf (g' % key.length) := by
      simp only [transpSource, sameRow, Nat.add_right_cancel_iff] at h
      exact Nat.eq_of_mul_eq_mul_right (Nat.zero_lt_of_lt hrow) h
    have hmem : g % key.length ∈ colorder key :=
      (colorder_perm key).mem_iff.2 (List.mem_range.2 (Nat.mod_lt _ hm))
    exact (List.idxOf_inj hmem).1 hidx
  rw [← Nat.div_add_mod g key.length, ← Nat.div_add_mod g' key.length, sameRow, sameColumn]

/-- TRANSP.D never lengthens the text: each cell kept comes from a place of its own (44_classical_1.md R246). -/
theorem transpDec_length_le (fill : Cell) (text key : List Cell) :
    (transpDec fill text key).length ≤ text.length := by
  let kept := (List.range (ceilDiv text.length key.length * key.length)).filter
    ((· != fill) ∘ transpGridCell fill text key)
  have hsources : (kept.map (transpSource text key)).Nodup :=
    (List.nodup_range.filter _).map_on fun g hg g' hg' => by
      have hlt := List.mem_range.1 (List.mem_filter.1 hg).1
      have hlt' := List.mem_range.1 (List.mem_filter.1 hg').1
      exact transpSource_injOn text key hlt hlt'
  have hinside : ∀ p ∈ kept.map (transpSource text key), p < text.length := by
    intro p hp
    obtain ⟨g, hg, rfl⟩ := List.mem_map.1 hp
    by_contra hout
    have hfill : transpGridCell fill text key g = fill := by
      rw [transpGridCell_eq]; exact List.getD_eq_default _ _ (by omega)
    simpa [hfill] using (List.mem_filter.1 hg).2
  calc (transpDec fill text key).length
    _ = (kept.map (transpSource text key)).length := by simp [transpDec, kept, List.filter_map]
    _ ≤ text.length := length_le_of_nodup_of_lt hsources hinside

/-! The other text commands -/

/-- FRACT.E adds one cell for each letter (44_classical_1.md R253). -/
theorem fractEnc_length (text : List Cell) : (fractEnc text).length = text.length + letterCount text := by
  induction text with
  | nil => rfl
  | cons c cs ih =>
    rw [fractEnc, List.flatMap_cons, ← fractEnc, List.length_append, ih]
    simp only [letterCount, List.countP_cons, List.length_cons]
    split
    · simp only [List.length_cons, List.length_nil]; omega
    · simp only [List.length_cons, List.length_nil]; omega

/-- HILL's indices: one for each letter, and the filler if their number is odd (45_classical_2.md R278). -/
theorem hillIndices_length (fill : Nat) (text : List Cell) :
    (hillIndices fill text).length = letterCount text + letterCount text % 2 := by
  simp only [hillIndices, letterCount, List.length_map, List.countP_eq_length_filter]
  split
  · simp only [List.length_append, List.length_map, List.length_singleton]; omega
  · simp only [List.length_map]; omega

/-- HILL's output has one cell for each index (45_classical_2.md R278). -/
theorem hillApply_length (fill : Nat) (text : List Cell) (m : Matrix26) :
    (hillApply fill text m).length = letterCount text + letterCount text % 2 := by
  rw [hillApply, hillPairs_length, hillIndices_length]
  omega

/-- No position of a text lies on two rails (45_classical_2.md R283). -/
theorem railPositions_nodup (n len k : Nat) :
    ((List.range k).flatMap (railPositions n len)).Nodup := by
  refine List.nodup_flatMap.2 ⟨fun r _ => List.nodup_range.filter _, ?_⟩
  refine List.nodup_range.imp fun {r r'} hne p hp hp' => hne ?_
  have hr : railOf n p = r := by simpa using (List.mem_filter.1 hp).2
  have hr' : railOf n p = r' := by simpa using (List.mem_filter.1 hp').2
  exact hr.symm.trans hr'

/-- RAIL.E never lengthens the text (45_classical_2.md R284). -/
theorem railEnc_length_le (text : List Cell) (n : Nat) : (railEnc text n).length ≤ text.length := by
  calc (railEnc text n).length
    _ = ((List.range (min n text.length)).flatMap (railPositions n text.length)).length := by
      simp [railEnc, List.length_flatMap]
    _ ≤ text.length := by
      refine length_le_of_nodup_of_lt (railPositions_nodup n text.length _) fun p hp => ?_
      obtain ⟨r, -, hpr⟩ := List.mem_flatMap.1 hp
      exact List.mem_range.1 (List.mem_filter.1 hpr).1

/-! Base64 -/

/-- Four characters for each group of three bytes, the last one maybe short (46_envelope.md R321). -/
theorem b64Enc_length (b : List Byte) : (b64Enc b).length = 4 * ((b.length + 2) / 3) := by
  fun_induction b64Enc b with
  | case1 => rfl
  | case2 a v => simp
  | case3 a b v => simp
  | case4 a b c rest v ih => simp only [List.length_cons, ih]; omega

/-- A group gives at most three bytes (46_envelope.md R321). -/
theorem b64Group_length_le {q g : List Byte} {pad : Nat} (h : b64Group q pad = some g) : g.length ≤ 3 := by
  unfold b64Group at h
  split at h
  · cases h
  · cases h
    simp only [List.length_take, unbe_length]
    omega

/-- Decoding never lengthens (46_envelope.md R321). -/
theorem b64Dec_length_le {t v : List Byte} (h : b64Dec t = some v) : v.length ≤ t.length := by
  fun_induction b64Dec t generalizing v with
  | case1 => cases h; simp
  | case2 q0 q1 q2 q3 =>
    have hgroup := b64Group_length_le h
    simp only [List.length_cons, List.length_nil]
    omega
  | case3 q0 q1 q2 q3 rest hne g out hout hg ih =>
    have hgroup := b64Group_length_le hg
    have hrest := ih hout
    cases h
    simp only [List.length_append, List.length_cons]
    omega
  | case4 => cases h
  | case5 => cases h

end Sys2Proof.Machine
end

section
/-! SUPPORT. What the host's transactions do, one rule each, and that a command's word decodes to the command. -/

namespace Sys2Proof.Machine

-- Elaborating many proofs at once exhausts the memory limit of the check, as in the model's own tests.
set_option Elab.async false

variable {s t : State}

/-- The word of a command decodes to it (30_encoding.md R93, R94). -/
theorem decode_encode (i : Instr) : decode (encode i) = .ok i := by
  cases i with
  | aCtr dir => revert dir; decide
  | rot13 dir => revert dir; decide
  | pass dir => revert dir; decide
  | _ => rfl

/-- A write to CMD of a command's word is the command (10_state.md R27). -/
theorem perform_writeCmd {w : Word} {i : Instr} (h : decode w = .ok i) (s : State) :
    perform (.writeReg 0 w) s = exec i s := by
  simp [perform, writeCmd, h]

/-- A write to CMD of a word that is no command is reported (60_exceptions.md R347). -/
theorem perform_writeCmd_illegal {w : Word} {e : DecodeError} (h : decode w = .error e) :
    perform (.writeReg 0 w) s = .next t ↔ t = { s with status := 10 } := by
  simp [perform, writeCmd, h, raiseIllegal_next]

/-- A write to a register other than CMD (10_state.md R34). -/
theorem perform_writeReg {n : Nat} (hn : n ≠ 0) (v : Word) :
    perform (.writeReg n v) s = .next t ↔ t = s.writeReg n v := by
  simp [perform, hn, eq_comm]

@[simp] theorem State.writeReg_status (s : State) (n : Nat) (v : Word) : (s.writeReg n v).status = s.status := by
  unfold State.writeReg; split <;> rfl
@[simp] theorem State.writeReg_ivctr (s : State) (n : Nat) (v : Word) : (s.writeReg n v).ivctr = s.ivctr := by
  unfold State.writeReg; split <;> rfl
@[simp] theorem State.writeReg_mem (s : State) (n : Nat) (v : Word) : (s.writeReg n v).mem = s.mem := by
  unfold State.writeReg; split <;> rfl
@[simp] theorem State.writeReg_cfg (s : State) (n : Nat) (v : Word) : (s.writeReg n v).cfg = s.cfg := by
  unfold State.writeReg; split <;> rfl

@[simp] theorem State.setStatus_ivctr (s : State) (c : Code) : (s.setStatus c).ivctr = s.ivctr := rfl
@[simp] theorem State.putBytes_ivctr (s : State) (b : ByteBuf) (v : List Byte) : (s.putBytes b v).ivctr = s.ivctr := rfl

/-- GEN_IV's update of IVCTR (41_derivation.md R149). -/
@[simp] theorem State.advanceIvctr_ivctr (s : State) : s.advanceIvctr.ivctr = s.ivctr + 1 :=
  s.setIvctr_ivctr (s.ivctr + 1)

/-- The step performs the oldest pending transaction (20_memory.md R62). -/
theorem step_of_pending {x : Transaction} {rest : List Transaction} (h : s.pending = x :: rest) :
    step s = perform x { s with pending := rest } := by
  simp [step, performNext, h]

/-- With nothing pending the step changes nothing (20_memory.md R70). -/
theorem step_idle (h : s.pending = []) : step s = .next s := by
  simp [step, performNext, h]

end Sys2Proof.Machine
end

section
/-! SUPPORT. What a command can do to the state, as data: a command answers the state after one `Effect`, its effect
keeps to the columns of spec/10_state.md R38, and two states that agree on the command's column "reads" get the same
effect. -/

namespace Sys2Proof.Machine

-- Elaborating many proofs at once exhausts the memory limit of the check, as in the model's own tests.
set_option Elab.async false

variable {i : Instr} {s s' t : State}

/-! Rules for `sameItem`: what agrees after each operation of the state. -/

theorem sameItem_refl (x : Item) (s : State) : sameItem x s s := by
  cases x <;> simp [sameItem]

/-- Two states agree on a byte buffer exactly when its contents are equal. -/
theorem sameItem_bytes (b : ByteBuf) : sameItem (.bytes b) s t ↔ s.mem.bytes b = t.mem.bytes b :=
  (List.ext_getElem?_iff).symm

/-- Two states agree on a cell buffer exactly when its contents are equal. -/
theorem sameItem_cells (b : CellBuf) : sameItem (.cells b) s t ↔ s.mem.cells b = t.mem.cells b :=
  (List.ext_getElem?_iff).symm

/-- STATUS is no item of R38's columns. -/
@[simp] theorem sameItem_setStatus (x : Item) (c : Code) : sameItem x s (t.setStatus c) ↔ sameItem x s t := by
  cases x <;> rfl

/-- The count of samples is no item of R38's columns. -/
@[simp] theorem sameItem_countDraw (x : Item) : sameItem x s t.countDraw ↔ sameItem x s t := by
  cases x <;> rfl

theorem sameItem_setRv {x : Item} (hx : x ≠ .rv) (v : DWord) : sameItem x s (t.setRv v) ↔ sameItem x s t := by
  cases x with
  | rv => exact absurd rfl hx
  | _ => rfl

theorem sameItem_setIvctr {x : Item} (hx : x ≠ .ivctr) (v : DWord) :
    sameItem x s (t.setIvctr v) ↔ sameItem x s t := by
  cases x with
  | ivctr => exact absurd rfl hx
  | _ => rfl

theorem sameItem_putBytes {x : Item} {b : ByteBuf} (hx : x ≠ .bytes b) (v : List Byte) :
    sameItem x s (t.putBytes b v) ↔ sameItem x s t := by
  cases x with
  | bytes b' =>
    have hb : b' ≠ b := fun h => hx (h ▸ rfl)
    simp [sameItem_bytes, Memory.bytes_setBytes, hb]
  | cells b' => simp [sameItem_cells]
  | _ => rfl

theorem sameItem_putCells {x : Item} {b : CellBuf} (hx : x ≠ .cells b) (v : List Cell) :
    sameItem x s (t.putCells b v) ↔ sameItem x s t := by
  cases x with
  | cells b' =>
    have hb : b' ≠ b := fun h => hx (h ▸ rfl)
    simp [sameItem_cells, Memory.cells_setCells, hb]
  | bytes b' => simp [sameItem_bytes]
  | _ => rfl

/-! Effects -/

/-- The effect of a command: what it writes, with the values, or how it fails (10_state.md R38). -/
inductive Effect
  /-- RV gets v (GFMUL, BITPERM). -/
  | rv (v : DWord)
  /-- A byte buffer gets v. -/
  | bytes (b : ByteBuf) (v : List Byte)
  /-- A cell buffer gets v. -/
  | cells (b : CellBuf) (v : List Cell)
  /-- IV gets v and IVCTR gets c, one sample of TIME_MS being taken (GEN_IV). -/
  | freshIv (v : List Byte) (c : DWord)
  /-- IV gets v and DOUT gets r (ENV_UNPACK). -/
  | unpacked (v r : List Byte)
  /-- The destination is emptied and the code reported (60_exceptions.md R346). -/
  | failure (d : Dest) (c : Code)

/-- The destination as an item of R38's columns. -/
def Dest.item : Dest → Item
  | .rv => .rv
  | .dout => .bytes .dout
  | .tout => .cells .tout

namespace Effect

/-- The state after the effect. -/
def after (s : State) : Effect → State
  | .rv v => (s.setRv v).setStatus .ok
  | .bytes b v => (s.putBytes b v).setStatus .ok
  | .cells b v => (s.putCells b v).setStatus .ok
  | .freshIv v c => ((s.putBytes .iv v).setIvctr c).countDraw.setStatus .ok
  | .unpacked v r => ((s.putBytes .iv v).putBytes .dout r).setStatus .ok
  | .failure d c => (s.emptyDest d).setStatus c

/-- The items the effect writes. -/
def writes : Effect → List Item
  | .rv _ => [.rv]
  | .bytes b _ => [.bytes b]
  | .cells b _ => [.cells b]
  | .freshIv _ _ => [.bytes .iv, .ivctr]
  | .unpacked _ _ => [.bytes .iv, .bytes .dout]
  | .failure d _ => [d.item]

/-- The code the effect reports. -/
def code : Effect → Code
  | .failure _ c => c
  | _ => .ok

/-- Whether the effect takes a sample of TIME_MS. -/
def samples : Effect → Bool
  | .freshIv _ _ => true
  | _ => false

/-- The buffers the effect writes have room for their new contents. -/
def Fits (c : Config) : Effect → Prop
  | .rv _ => True
  | .bytes b v => v.length ≤ c.byteCap b
  | .cells b v => v.length ≤ c.cellCap b
  | .freshIv v _ => v.length ≤ c.byteCap .iv
  | .unpacked v r => v.length ≤ c.byteCap .iv ∧ r.length ≤ c.byteCap .dout
  | .failure _ _ => True

variable (e : Effect)

@[simp] theorem after_status : (e.after s).status = e.code.word := by cases e <;> rfl
@[simp] theorem after_cfg : (e.after s).cfg = s.cfg := by
  cases e with
  | failure d c => cases d <;> rfl
  | _ => rfl
@[simp] theorem after_timeMs : (e.after s).timeMs = s.timeMs := by
  cases e with
  | failure d c => cases d <;> rfl
  | _ => rfl
@[simp] theorem after_pending : (e.after s).pending = s.pending := by
  cases e with
  | failure d c => cases d <;> rfl
  | _ => rfl
@[simp] theorem after_lastRead : (e.after s).lastRead = s.lastRead := by
  cases e with
  | failure d c => cases d <;> rfl
  | _ => rfl

/-- Only an effect that samples TIME_MS counts a sample. -/
theorem after_timeDraws {e : Effect} (h : e.samples = false) : (e.after s).timeDraws = s.timeDraws := by
  cases e with
  | freshIv v c => cases h
  | failure d c => cases d <;> rfl
  | _ => rfl

/-- The frame of an effect: an item it does not write is as before. -/
theorem sameItem_after {e : Effect} {x : Item} (hx : x ∉ e.writes) : sameItem x s (e.after s) := by
  have hrefl := sameItem_refl x s
  cases e with
  | rv v => simpa [after, sameItem_setRv (List.ne_of_not_mem_cons hx)] using hrefl
  | bytes b v => simpa [after, sameItem_putBytes (List.ne_of_not_mem_cons hx)] using hrefl
  | cells b v => simpa [after, sameItem_putCells (List.ne_of_not_mem_cons hx)] using hrefl
  | freshIv v c =>
    obtain ⟨hiv, hctr⟩ : x ≠ .bytes .iv ∧ x ≠ .ivctr := by simpa [writes] using hx
    simpa [after, sameItem_setIvctr hctr, sameItem_putBytes hiv] using hrefl
  | unpacked v r =>
    obtain ⟨hiv, hdout⟩ : x ≠ .bytes .iv ∧ x ≠ .bytes .dout := by simpa [writes] using hx
    simpa [after, sameItem_putBytes hiv, sameItem_putBytes hdout] using hrefl
  | failure d c =>
    have hd := List.ne_of_not_mem_cons hx
    cases d with
    | rv => simpa [after, State.emptyDest, sameItem_setRv hd] using hrefl
    | dout => simpa [after, State.emptyDest, sameItem_putBytes hd] using hrefl
    | tout => simpa [after, State.emptyDest, sameItem_putCells hd] using hrefl

/-- One effect writes the same values into any two states. -/
theorem sameItem_after_after {e : Effect} {x : Item} (hx : x ∈ e.writes) (s s' : State) :
    sameItem x (e.after s) (e.after s') := by
  cases e with
  | rv v => cases List.mem_singleton.1 hx; exact ⟨rfl, rfl⟩
  | bytes b v =>
    cases List.mem_singleton.1 hx
    simp [sameItem_bytes, after, Memory.bytes_setBytes]
  | cells b v =>
    cases List.mem_singleton.1 hx
    simp [sameItem_cells, after, Memory.cells_setCells]
  | freshIv v c =>
    obtain rfl | rfl : x = .bytes .iv ∨ x = .ivctr := by simpa [writes] using hx
    · exact fun _ => rfl
    · exact ⟨rfl, rfl⟩
  | unpacked v r =>
    obtain rfl | rfl : x = .bytes .iv ∨ x = .bytes .dout := by simpa [writes] using hx
    · exact fun _ => rfl
    · exact fun _ => rfl
  | failure d c =>
    cases List.mem_singleton.1 hx
    cases d with
    | rv => exact ⟨rfl, rfl⟩
    | dout => exact fun _ => rfl
    | tout => exact fun _ => rfl

/-- An effect whose contents fit keeps the form of the buffers. -/
theorem after_wf {e : Effect} (hwf : s.mem.wf s.cfg = true) (hfit : e.Fits s.cfg) :
    (e.after s).mem.wf s.cfg = true := by
  cases e with
  | rv v => exact hwf
  | bytes b v => exact Memory.setBytes_wf hwf hfit
  | cells b v => exact Memory.setCells_wf hwf hfit
  | freshIv v c => exact Memory.setBytes_wf hwf hfit
  | unpacked v r => exact Memory.setBytes_wf (Memory.setBytes_wf hwf hfit.1) hfit.2
  | failure d c => exact State.emptyDest_wf hwf d

end Effect

/-! What an effect of a given command must be like. -/

/-- What the results' lengths lean on: every buffer is within its capacity, and BUF_CAP is at least the bound of
00_scope.md R8. -/
structure State.Roomy (s : State) : Prop where
  bytes : ∀ b, (s.mem.bytes b).length ≤ s.cfg.byteCap b
  cells : ∀ b, (s.mem.cells b).length ≤ s.cfg.cellCap b
  cap : 69356 ≤ s.cfg.bufCap

/-- The invariant gives the room. -/
theorem State.Inv.roomy (h : s.Inv) : s.Roomy := by
  obtain ⟨hcfg, hmem, -⟩ := h
  obtain ⟨hbytes, hcells⟩ := (Memory.wf_iff s.cfg s.mem).1 hmem
  simp only [Config.wellFormed, Config.capsWellFormed, Bool.and_eq_true, decide_eq_true_eq] at hcfg
  obtain ⟨⟨⟨⟨⟨hcap, -⟩, -⟩, -⟩, -⟩, -⟩ := hcfg
  exact ⟨hbytes, hcells, hcap⟩

namespace State.Roomy

variable (h : s.Roomy)
include h

theorem din : s.mem.din.length ≤ s.cfg.bufCap := h.bytes .din
theorem dout : s.mem.dout.length ≤ s.cfg.bufCap := h.bytes .dout
theorem tin : s.mem.tin.length ≤ s.cfg.bufCap := h.cells .tin
theorem tout : s.mem.tout.length ≤ s.cfg.bufCap := h.cells .tout

end State.Roomy

/-- The effect is one the command may have: it writes what the column "writes" lists, all of it when it succeeds, it
samples TIME_MS when the command does, and its contents fit if there is room. -/
structure Effect.Legal (e : Effect) (i : Instr) (s : State) : Prop where
  writes_subset : e.writes ⊆ writesOf i
  subset_writes : e.code = .ok → writesOf i ⊆ e.writes
  samples_eq : e.samples = readsTime i
  fits : s.Roomy → e.Fits s.cfg

/-- Two answers of the command i, in s and in s', come from one effect that is legal for it. -/
def CommonEffect (i : Instr) (s s' : State) (a a' : Answer) : Prop :=
  ∃ e : Effect, e.Legal i s ∧ a = .next (e.after s) ∧ a' = .next (e.after s')

namespace CommonEffect

/-- An effect that writes exactly the column "writes". -/
theorem of_effect (e : Effect) (hw : e.writes = writesOf i) (ht : e.samples = readsTime i)
    (hfit : s.Roomy → e.Fits s.cfg) : CommonEffect i s s' (.next (e.after s)) (.next (e.after s')) :=
  ⟨e, ⟨fun _ hx => hw ▸ hx, fun _ _ hx => hw ▸ hx, ht, hfit⟩, rfl, rfl⟩

/-- The command succeeds with v in RV. -/
theorem rv {v : DWord} (hw : [.rv] = writesOf i := by rfl) (ht : false = readsTime i := by rfl) :
    CommonEffect i s s' (succeed (s.setRv v)) (succeed (s'.setRv v)) :=
  of_effect (.rv v) hw ht fun _ => trivial

/-- The command succeeds with v in a byte buffer. -/
theorem bytes {b : ByteBuf} {v : List Byte} (hfit : s.Roomy → v.length ≤ s.cfg.byteCap b)
    (hw : [.bytes b] = writesOf i := by rfl) (ht : false = readsTime i := by rfl) :
    CommonEffect i s s' (succeed (s.putBytes b v)) (succeed (s'.putBytes b v)) :=
  of_effect (.bytes b v) hw ht hfit

/-- The command succeeds with v in a cell buffer. -/
theorem cells {b : CellBuf} {v : List Cell} (hfit : s.Roomy → v.length ≤ s.cfg.cellCap b)
    (hw : [.cells b] = writesOf i := by rfl) (ht : false = readsTime i := by rfl) :
    CommonEffect i s s' (succeed (s.putCells b v)) (succeed (s'.putCells b v)) :=
  of_effect (.cells b v) hw ht hfit

/-- The command fails, with the destination its row of R38 names. -/
theorem failure {d : Dest} {c : Code} (hd : [d.item] ⊆ writesOf i := by simp [Dest.item, writesOf])
    (hc : c ≠ .ok := by decide) (ht : false = readsTime i := by rfl) :
    CommonEffect i s s' (raise d c s) (raise d c s') :=
  ⟨.failure d c, ⟨hd, (absurd · hc), ht, fun _ => trivial⟩, rfl, rfl⟩

/-- The command tests p first and fails with code c when it holds (60_exceptions.md R348). -/
theorem guard {p : Prop} [Decidable p] {d : Dest} {c : Code} {a a' : Answer}
    (ha : ¬ p → CommonEffect i s s' a a') (hd : [d.item] ⊆ writesOf i := by simp [Dest.item, writesOf])
    (hc : c ≠ .ok := by decide) (ht : false = readsTime i := by rfl) :
    CommonEffect i s s' (if p then raise d c s else a) (if p then raise d c s' else a') := by
  by_cases hp : p
  · simpa only [if_pos hp] using failure hd hc ht
  · simpa only [if_neg hp] using ha hp

/-- The command's result may not exist, and then it fails with code c. -/
theorem finishBytes {c : Code} {r : Option (List Byte)}
    (hfit : ∀ v, r = some v → s.Roomy → v.length ≤ s.cfg.bufCap) (hw : [.bytes .dout] = writesOf i := by rfl)
    (hc : c ≠ .ok := by decide) (ht : false = readsTime i := by rfl) :
    CommonEffect i s s' (finishBytes c r s) (finishBytes c r s') := by
  cases r with
  | some v => exact bytes (hfit v rfl) hw ht
  | none => exact failure (d := .dout) (fun _ hx => hw ▸ hx) hc ht

end CommonEffect

/-! Agreement on the column "reads". -/

/-- The two states agree on all that the command's result depends on (10_state.md R38). -/
structure SameInputs (i : Instr) (s s' : State) : Prop where
  cfg : s'.cfg = s.cfg
  items : ∀ x ∈ readsOf i, sameItem x s s'
  time : readsTime i = true → s'.sampleTime = s.sampleTime

namespace SameInputs

/-- A state agrees with itself. -/
theorem refl (i : Instr) (s : State) : SameInputs i s s := ⟨rfl, fun x _ => sameItem_refl x s, fun _ => rfl⟩

section
variable (h : SameInputs i s s')
include h

theorem p0 (hm : .p0 ∈ readsOf i := by simp [readsOf]) : s'.p0 = s.p0 := (h.items _ hm).symm
theorem p1 (hm : .p1 ∈ readsOf i := by simp [readsOf]) : s'.p1 = s.p1 := (h.items _ hm).symm
theorem p2 (hm : .p2 ∈ readsOf i := by simp [readsOf]) : s'.p2 = s.p2 := (h.items _ hm).symm
theorem p3 (hm : .p3 ∈ readsOf i := by simp [readsOf]) : s'.p3 = s.p3 := (h.items _ hm).symm

theorem pv (hm : .pv ∈ readsOf i := by simp [readsOf]) : s'.pv = s.pv := by
  obtain ⟨hhi, hlo⟩ := h.items _ hm
  rw [State.pv, State.pv, hhi, hlo]

theorem ivctr (hm : .ivctr ∈ readsOf i := by simp [readsOf]) : s'.ivctr = s.ivctr := by
  obtain ⟨hhi, hlo⟩ := h.items _ hm
  rw [State.ivctr, State.ivctr, hhi, hlo]

theorem bytes {b : ByteBuf} (hm : .bytes b ∈ readsOf i) : s'.mem.bytes b = s.mem.bytes b :=
  ((sameItem_bytes b).1 (h.items _ hm)).symm

theorem cells {b : CellBuf} (hm : .cells b ∈ readsOf i) : s'.mem.cells b = s.mem.cells b :=
  ((sameItem_cells b).1 (h.items _ hm)).symm

theorem key (hm : .bytes .key ∈ readsOf i := by simp [readsOf]) : s'.mem.key = s.mem.key := h.bytes hm
theorem iv (hm : .bytes .iv ∈ readsOf i := by simp [readsOf]) : s'.mem.iv = s.mem.iv := h.bytes hm
theorem din (hm : .bytes .din ∈ readsOf i := by simp [readsOf]) : s'.mem.din = s.mem.din := h.bytes hm
theorem dout (hm : .bytes .dout ∈ readsOf i := by simp [readsOf]) : s'.mem.dout = s.mem.dout := h.bytes hm
theorem ptab (hm : .bytes .ptab ∈ readsOf i := by simp [readsOf]) : s'.mem.ptab = s.mem.ptab := h.bytes hm
theorem tkey (hm : .cells .tkey ∈ readsOf i := by simp [readsOf]) : s'.mem.tkey = s.mem.tkey := h.cells hm
theorem tin (hm : .cells .tin ∈ readsOf i := by simp [readsOf]) : s'.mem.tin = s.mem.tin := h.cells hm
theorem tout (hm : .cells .tout ∈ readsOf i := by simp [readsOf]) : s'.mem.tout = s.mem.tout := h.cells hm

end

end SameInputs

end Sys2Proof.Machine
end

section
/-! SUPPORT. Every command answers one effect that is legal for it, the same in two states that agree on its column
"reads" (spec/10_state.md R38): one lemma per command, by the command's own tests, and then for all of them. -/

namespace Sys2Proof.Machine

-- Elaborating many proofs at once exhausts the memory limit of the check, as in the model's own tests.
set_option Elab.async false

variable {i : Instr} {s s' : State}

/-! Utilities (40_utilities.md) -/

theorem execGfmul_commonEffect (h : SameInputs .gfmul s s') :
    CommonEffect .gfmul s s' (execGfmul s) (execGfmul s') := by
  simp only [execGfmul, h.p0, h.p1]
  exact .rv

theorem execBitperm_commonEffect (h : SameInputs .bitperm s s') :
    CommonEffect .bitperm s s' (execBitperm s) (execBitperm s') := by
  simp only [execBitperm, State.permTable, h.p0, h.pv, h.ptab]
  exact .guard fun _ => .guard fun _ => .rv

/-! Derivation (41_derivation.md) -/

theorem execDeriveKeyA_commonEffect (h : SameInputs .deriveKeyA s s') :
    CommonEffect .deriveKeyA s s' (execDeriveKeyA s) (execDeriveKeyA s') := by
  simp only [execDeriveKeyA, h.din]
  exact .bytes fun _ => by simp [Config.byteCap, Config.keyCap]

theorem execDeriveKeyB_commonEffect (h : SameInputs .deriveKeyB s s') :
    CommonEffect .deriveKeyB s s' (execDeriveKeyB s) (execDeriveKeyB s') := by
  simp only [execDeriveKeyB, h.din]
  exact .bytes fun _ => by simp [Config.byteCap, Config.keyCap]

/-- A fresh IV written and IVCTR advanced. -/
theorem CommonEffect.freshIv {v : List Byte} {c : DWord} (hv : v.length ≤ 32)
    (hw : [.bytes .iv, .ivctr] = writesOf i := by rfl) (ht : true = readsTime i := by rfl) :
    CommonEffect i s s' (succeed ((s.putBytes .iv v).setIvctr c).countDraw)
      (succeed ((s'.putBytes .iv v).setIvctr c).countDraw) :=
  .of_effect (.freshIv v c) hw ht fun _ => hv

theorem execGenIvA_commonEffect (h : SameInputs .genIvA s s') :
    CommonEffect .genIvA s s' (execGenIvA s) (execGenIvA s') := by
  simp only [execGenIvA, State.advanceIvctr, State.putBytes_ivctr, h.cfg, h.time rfl, h.ivctr]
  exact .freshIv (by simp)

theorem execGenIvB_commonEffect (h : SameInputs .genIvB s s') :
    CommonEffect .genIvB s s' (execGenIvB s) (execGenIvB s') := by
  simp only [execGenIvB, State.advanceIvctr, State.putBytes_ivctr, h.cfg, h.time rfl, h.ivctr]
  exact .freshIv (by simp)

/-! Cipher A (42_cipher_a_spn.md) -/

theorem execAKeyexp_commonEffect (h : SameInputs .aKeyexp s s') :
    CommonEffect .aKeyexp s s' (execAKeyexp s) (execAKeyexp s') := by
  simp only [execAKeyexp, h.key]
  refine .guard fun hkey => .bytes fun room => ?_
  have hlen := keyexpA_length_le s.mem.key
  have hcap := room.cap
  simp only [Config.byteCap]
  omega

theorem execABlock_commonEffect (h : SameInputs .aBlock s s') :
    CommonEffect .aBlock s s' (execABlock s) (execABlock s') := by
  simp only [execABlock, h.key, h.din]
  refine .guard fun _ => .guard fun hdin => .bytes fun room => ?_
  calc (encblockA (keyexpA s.mem.key) s.mem.din).length
    _ ≤ 16 := encblockA_length_le _ _
    _ = s.mem.din.length := (not_not.1 hdin).symm
    _ ≤ s.cfg.bufCap := room.din

theorem execACtr_commonEffect (dir : BitVec 1) (h : SameInputs (.aCtr dir) s s') :
    CommonEffect (.aCtr dir) s s' (execACtr dir s) (execACtr dir s') := by
  simp only [execACtr, h.key, h.iv, h.din]
  exact .guard fun _ => .guard fun _ => .bytes fun room => (ctrLoop_length_le _ _ _ _).trans room.din

/-! Cipher B (43_cipher_b_feistel.md) -/

theorem execBKeysched_commonEffect (h : SameInputs .bKeysched s s') :
    CommonEffect .bKeysched s s' (execBKeysched s) (execBKeysched s') := by
  simp only [execBKeysched, h.key]
  refine .guard fun _ => .bytes fun room => ?_
  calc ((keyschedB s.mem.key).flatMap fun k => unbe 6 k.toNat).length
    _ = 96 := by simp
    _ ≤ 69356 := by decide
    _ ≤ s.cfg.bufCap := room.cap

/-- The single-block commands, in either direction. -/
theorem blockCommandB_commonEffect (dir : Dir) (hkey : s'.mem.key = s.mem.key) (hdin : s'.mem.din = s.mem.din)
    (hw : [.bytes .dout] = writesOf i := by rfl) (ht : false = readsTime i := by rfl) :
    CommonEffect i s s' (blockCommandB dir s) (blockCommandB dir s') := by
  simp only [blockCommandB, hkey, hdin]
  have hd : [Dest.dout.item] ⊆ writesOf i := fun _ hx => hw ▸ hx
  refine .guard (hd := hd) (ht := ht) fun _ => .guard (hd := hd) (ht := ht) fun hlen => ?_
  refine .bytes (hw := hw) (ht := ht) fun room => ?_
  calc (blockB (keyschedB s.mem.key) s.mem.din dir).length
    _ = 8 := blockB_length _ _ _
    _ = s.mem.din.length := (not_not.1 hlen).symm
    _ ≤ s.cfg.bufCap := room.din

theorem execBCbcE_commonEffect (h : SameInputs .bCbcE s s') :
    CommonEffect .bCbcE s s' (execBCbcE s) (execBCbcE s') := by
  simp only [execBCbcE, h.cfg, h.key, h.iv, h.din]
  exact .guard fun _ => .guard fun _ => .guard fun hcap => .bytes fun _ =>
    (cbcEncB_length _ _ _).trans_le (not_lt.1 hcap)

theorem execBCbcD_commonEffect (h : SameInputs .bCbcD s s') :
    CommonEffect .bCbcD s s' (execBCbcD s) (execBCbcD s') := by
  simp only [execBCbcD, h.key, h.iv, h.din]
  exact .guard fun _ => .guard fun _ => .guard fun _ => .finishBytes fun _ hv room =>
    (cbcDecB_length_le hv).trans room.din

/-! The classical suite, part 1 (44_classical_1.md) -/

/-- A result no longer than TIN fits TOUT. -/
theorem CommonEffect.ofTin {v : List Cell} (hv : v.length ≤ s.mem.tin.length)
    (hw : [.cells .tout] = writesOf i := by rfl) (ht : false = readsTime i := by rfl) :
    CommonEffect i s s' (succeed (s.putCells .tout v)) (succeed (s'.putCells .tout v)) :=
  .cells (hw := hw) (ht := ht) fun room => hv.trans room.tin

theorem execShiftE_commonEffect (h : SameInputs .shiftE s s') :
    CommonEffect .shiftE s s' (execShiftE s) (execShiftE s') := by
  simp only [execShiftE, h.p0, h.tin]
  exact .ofTin (List.length_map _).le

theorem execShiftD_commonEffect (h : SameInputs .shiftD s s') :
    CommonEffect .shiftD s s' (execShiftD s) (execShiftD s') := by
  simp only [execShiftD, h.p0, h.tin]
  exact .ofTin (List.length_map _).le

theorem execPolyE_commonEffect (h : SameInputs .polyE s s') :
    CommonEffect .polyE s s' (execPolyE s) (execPolyE s') := by
  simp only [execPolyE, h.tkey, h.tin]
  split
  · exact .ofTin (polyLoop_length _ _ _ _).le
  · exact .failure

theorem execPolyD_commonEffect (h : SameInputs .polyD s s') :
    CommonEffect .polyD s s' (execPolyD s) (execPolyD s') := by
  simp only [execPolyD, h.tkey, h.tin]
  split
  · exact .ofTin (polyLoop_length _ _ _ _).le
  · exact .failure

theorem execRot13_commonEffect (dir : BitVec 1) (h : SameInputs (.rot13 dir) s s') :
    CommonEffect (.rot13 dir) s s' (execRot13 dir s) (execRot13 dir s') := by
  simp only [execRot13, h.tin]
  exact .ofTin (List.length_map _).le

theorem execTranspE_commonEffect (h : SameInputs .transpE s s') :
    CommonEffect .transpE s s' (execTranspE s) (execTranspE s') := by
  simp only [execTranspE, h.cfg, h.tkey, h.tin]
  exact .guard fun _ => .guard fun hcap => .cells fun _ => (transpEnc_length _ _ _).trans_le (not_lt.1 hcap)

theorem execTranspD_commonEffect (h : SameInputs .transpD s s') :
    CommonEffect .transpD s s' (execTranspD s) (execTranspD s') := by
  simp only [execTranspD, h.cfg, h.tkey, h.tin]
  exact .guard fun _ => .ofTin (transpDec_length_le _ _ _)

theorem execFractE_commonEffect (h : SameInputs .fractE s s') :
    CommonEffect .fractE s s' (execFractE s) (execFractE s') := by
  simp only [execFractE, h.cfg, h.tin]
  exact .guard fun hcap => .cells fun _ => (fractEnc_length _).trans_le (not_lt.1 hcap)

theorem execFractD_commonEffect (h : SameInputs .fractD s s') :
    CommonEffect .fractD s s' (execFractD s) (execFractD s') := by
  simp only [execFractD, h.tin]
  exact .ofTin (fractDec_length_le _)

/-! The classical suite, part 2 (45_classical_2.md) -/

theorem execPictoE_commonEffect (h : SameInputs .pictoE s s') :
    CommonEffect .pictoE s s' (execPictoE s) (execPictoE s') := by
  simp only [execPictoE, h.cfg, h.tin]
  exact .ofTin (List.length_map _).le

theorem execPictoD_commonEffect (h : SameInputs .pictoD s s') :
    CommonEffect .pictoD s s' (execPictoD s) (execPictoD s') := by
  simp only [execPictoD, h.cfg, h.tin]
  exact .ofTin (List.length_map _).le

/-- The tail of the two HILL commands. -/
theorem hillFinish_commonEffect (m : Matrix26) (hcfg : s'.cfg = s.cfg) (htin : s'.mem.tin = s.mem.tin)
    (hw : [.cells .tout] = writesOf i := by rfl) (ht : false = readsTime i := by rfl) :
    CommonEffect i s s' (hillFinish m s) (hillFinish m s') := by
  simp only [hillFinish, hcfg, htin]
  refine .guard (hd := fun _ hx => hw ▸ hx) (ht := ht) fun hcap => ?_
  exact .cells (hw := hw) (ht := ht) fun _ => (hillApply_length _ _ _).trans_le (not_lt.1 hcap)

theorem execHillE_commonEffect (h : SameInputs .hillE s s') :
    CommonEffect .hillE s s' (execHillE s) (execHillE s') := by
  simp only [execHillE, State.hillMatrix, h.p0, h.p1, h.p2, h.p3]
  exact hillFinish_commonEffect _ h.cfg h.tin

theorem execHillD_commonEffect (h : SameInputs .hillD s s') :
    CommonEffect .hillD s s' (execHillD s) (execHillD s') := by
  simp only [execHillD, State.hillMatrix, h.p0, h.p1, h.p2, h.p3]
  split
  · exact .failure
  · exact hillFinish_commonEffect _ h.cfg h.tin

theorem execRailE_commonEffect (h : SameInputs .railE s s') :
    CommonEffect .railE s s' (execRailE s) (execRailE s') := by
  simp only [execRailE, h.p0, h.tin]
  split
  · exact .ofTin le_rfl
  · exact .ofTin (railEnc_length_le _ _)

theorem execRailD_commonEffect (h : SameInputs .railD s s') :
    CommonEffect .railD s s' (execRailD s) (execRailD s') := by
  simp only [execRailD, h.p0, h.tin]
  split
  · exact .ofTin le_rfl
  · exact .ofTin (railDec_length _ _).le

theorem execMultE_commonEffect (h : SameInputs .multE s s') :
    CommonEffect .multE s s' (execMultE s) (execMultE s') := by
  simp only [execMultE, h.p0, h.tin]
  exact .ofTin (List.length_map _).le

theorem execMultD_commonEffect (h : SameInputs .multD s s') :
    CommonEffect .multD s s' (execMultD s) (execMultD s') := by
  simp only [execMultD, h.p0, h.tin]
  split
  · exact .failure
  · exact .ofTin (List.length_map _).le

theorem execPass_commonEffect (dir : BitVec 1) (h : SameInputs (.pass dir) s s') :
    CommonEffect (.pass dir) s s' (execPass dir s) (execPass dir s') := by
  simp only [execPass, h.tin]
  exact .ofTin le_rfl

/-! Envelope, base64 and moves (46_envelope.md) -/

/-- Packing, for an IV of either size. -/
theorem envPack_commonEffect (n : Nat) (hcfg : s'.cfg = s.cfg) (hiv : s'.mem.iv = s.mem.iv)
    (hdin : s'.mem.din = s.mem.din) (hw : [.bytes .dout] = writesOf i := by rfl)
    (ht : false = readsTime i := by rfl) : CommonEffect i s s' (envPack n s) (envPack n s') := by
  simp only [envPack, hcfg, hiv, hdin]
  have hd : [Dest.dout.item] ⊆ writesOf i := fun _ hx => hw ▸ hx
  refine .guard (hd := hd) (ht := ht) fun hlen => .guard (hd := hd) (ht := ht) fun hcap => ?_
  refine .bytes (hw := hw) (ht := ht) fun _ => ?_
  simp only [List.length_append, Config.byteCap]
  omega

/-- Unpacking, for an IV of either size. -/
theorem envUnpack_commonEffect {n : Nat} (hn : n ≤ 32) (hdin : s'.mem.din = s.mem.din)
    (hw : [.bytes .iv, .bytes .dout] = writesOf i := by rfl) (ht : false = readsTime i := by rfl) :
    CommonEffect i s s' (envUnpack n s) (envUnpack n s') := by
  simp only [envUnpack, hdin]
  have hd : [Dest.dout.item] ⊆ writesOf i := hw ▸ by simp [Dest.item]
  refine .guard (hd := hd) (ht := ht) fun _ => ?_
  refine .of_effect (.unpacked (s.mem.din.take n) (s.mem.din.drop n)) hw ht fun room => ⟨?_, ?_⟩
  · exact (List.length_take_le _ _).trans hn
  · exact (List.length_drop.trans_le (Nat.sub_le _ _)).trans room.din

theorem execB64E_commonEffect (h : SameInputs .b64E s s') :
    CommonEffect .b64E s s' (execB64E s) (execB64E s') := by
  simp only [execB64E, h.cfg, h.din]
  exact .guard fun hcap => .bytes fun _ => (b64Enc_length _).trans_le (not_lt.1 hcap)

theorem execB64D_commonEffect (h : SameInputs .b64D s s') :
    CommonEffect .b64D s s' (execB64D s) (execB64D s') := by
  simp only [execB64D, h.din]
  exact .finishBytes fun _ hv room => (b64Dec_length_le hv).trans room.din

theorem execMovb_commonEffect (h : SameInputs .movb s s') :
    CommonEffect .movb s s' (execMovb s) (execMovb s') := by
  simp only [execMovb, h.dout]
  exact .bytes fun room => room.dout

theorem execMovt_commonEffect (h : SameInputs .movt s s') :
    CommonEffect .movt s s' (execMovt s) (execMovt s') := by
  simp only [execMovt, h.tout]
  exact .cells fun room => room.tout

/-! All commands -/

/-- Two states that agree on a command's column "reads" get one effect, legal for the command. -/
theorem exec_commonEffect (h : SameInputs i s s') : CommonEffect i s s' (exec i s) (exec i s') := by
  cases i with
  | gfmul => exact execGfmul_commonEffect h
  | bitperm => exact execBitperm_commonEffect h
  | deriveKeyA => exact execDeriveKeyA_commonEffect h
  | deriveKeyB => exact execDeriveKeyB_commonEffect h
  | genIvA => exact execGenIvA_commonEffect h
  | genIvB => exact execGenIvB_commonEffect h
  | aKeyexp => exact execAKeyexp_commonEffect h
  | aBlock => exact execABlock_commonEffect h
  | aCtr dir => exact execACtr_commonEffect dir h
  | bKeysched => exact execBKeysched_commonEffect h
  | bBlockE => exact blockCommandB_commonEffect .enc h.key h.din
  | bBlockD => exact blockCommandB_commonEffect .dec h.key h.din
  | bCbcE => exact execBCbcE_commonEffect h
  | bCbcD => exact execBCbcD_commonEffect h
  | shiftE => exact execShiftE_commonEffect h
  | shiftD => exact execShiftD_commonEffect h
  | polyE => exact execPolyE_commonEffect h
  | polyD => exact execPolyD_commonEffect h
  | rot13 dir => exact execRot13_commonEffect dir h
  | transpE => exact execTranspE_commonEffect h
  | transpD => exact execTranspD_commonEffect h
  | fractE => exact execFractE_commonEffect h
  | fractD => exact execFractD_commonEffect h
  | pictoE => exact execPictoE_commonEffect h
  | pictoD => exact execPictoD_commonEffect h
  | hillE => exact execHillE_commonEffect h
  | hillD => exact execHillD_commonEffect h
  | railE => exact execRailE_commonEffect h
  | railD => exact execRailD_commonEffect h
  | multE => exact execMultE_commonEffect h
  | multD => exact execMultD_commonEffect h
  | pass dir => exact execPass_commonEffect dir h
  | envPackA => exact envPack_commonEffect 16 h.cfg h.iv h.din
  | envPackB => exact envPack_commonEffect 8 h.cfg h.iv h.din
  | envUnpackA => exact envUnpack_commonEffect (by decide) h.din
  | envUnpackB => exact envUnpack_commonEffect (by decide) h.din
  | b64E => exact execB64E_commonEffect h
  | b64D => exact execB64D_commonEffect h
  | movb => exact execMovb_commonEffect h
  | movt => exact execMovt_commonEffect h

/-- Every command answers a next state, the one after an effect legal for it. -/
theorem exec_effect (i : Instr) (s : State) : ∃ e : Effect, e.Legal i s ∧ exec i s = .next (e.after s) := by
  obtain ⟨e, hlegal, he, -⟩ := exec_commonEffect (SameInputs.refl i s)
  exact ⟨e, hlegal, he⟩

end Sys2Proof.Machine
end

section
/-! PROOFS. The statements about what commands read, write and keep. -/

namespace Sys2Proof.Machine

-- Elaborating many proofs at once exhausts the memory limit of the check, as in the model's own tests.
set_option Elab.async false

variable {i : Instr} {s t : State}

/-- What a command answers when it answers t: the state after an effect legal for it. -/
theorem exec_next (h : exec i s = .next t) : ∃ e : Effect, e.Legal i s ∧ t = e.after s := by
  obtain ⟨e, hlegal, he⟩ := exec_effect i s
  exact ⟨e, hlegal, Host.Outcome.next.inj (h.symm.trans he)⟩

/-- Only the code OK is the word 0 (60_exceptions.md R341). -/
theorem Code.word_eq_zero {c : Code} : c.word = 0 ↔ c = .ok := by cases c <;> decide

/-- Settles O52: a command has the effect of a write to listed items, and an effect leaves all others as they were. -/
theorem commandsWriteOnlyWhatIsListed : Obligations.CommandsWriteOnlyWhatIsListed := by
  intro i s t ht
  obtain ⟨e, hlegal, rfl⟩ := exec_next ht
  refine ⟨fun x hx => ?_, e.after_cfg, e.after_timeMs, e.after_pending, e.after_lastRead, fun htime => ?_⟩
  · exact Effect.sameItem_after fun hwritten => hx (hlegal.writes_subset hwritten)
  · exact Effect.after_timeDraws (hlegal.samples_eq.trans htime)

/-- Settles O53: both states get one effect, which reports one code and writes the same values into either. -/
theorem commandsDependOnlyOnWhatIsListed : Obligations.CommandsDependOnlyOnWhatIsListed := by
  intro i s s' t t' hcfg hreads htime ht ht'
  obtain ⟨e, hlegal, he, he'⟩ :=
    exec_commonEffect (s' := s') ⟨hcfg.symm, hreads, fun hsamples => (htime hsamples).symm⟩
  obtain rfl := Host.Outcome.next.inj (ht.symm.trans he)
  obtain rfl := Host.Outcome.next.inj (ht'.symm.trans he')
  refine ⟨by simp only [Effect.after_status], fun hstatus x hx => ?_⟩
  have hok : e.code = .ok := Code.word_eq_zero.1 (e.after_status.symm.trans hstatus)
  exact Effect.sameItem_after_after (hlegal.subset_writes hok hx) s s'

/-! The invariant -/

/-- The invariant speaks of the configuration, the buffers and STATUS only. -/
theorem State.Inv.of_eq (h : s.Inv) (hcfg : t.cfg = s.cfg) (hmem : t.mem = s.mem) (hstatus : t.status = s.status) :
    t.Inv := by
  simpa only [State.Inv, State.statusLegal, hcfg, hmem, hstatus] using h

/-- STATUS set to a code is legal (60_exceptions.md R341). -/
theorem Code.word_toNat_le (c : Code) : c.word.toNat ≤ 10 := c.word_toNat.trans_le c.number_le

/-- Every command keeps the invariant: its results fit, and STATUS gets a code. -/
theorem exec_inv (h : s.Inv) (ht : exec i s = .next t) : t.Inv := by
  obtain ⟨e, hlegal, rfl⟩ := exec_next ht
  have ⟨hcfg, hmem, _⟩ := h
  refine ⟨by rwa [Effect.after_cfg], ?_, ?_⟩
  · rw [Effect.after_cfg]
    exact Effect.after_wf hmem (hlegal.fits h.roomy)
  · rw [State.statusLegal, Effect.after_status]
    exact e.code.word_toNat_le

/-- Every transaction keeps the invariant. -/
theorem perform_inv {x : Transaction} (h : s.Inv) (ht : perform x s = .next t) : t.Inv := by
  have ⟨hcfg, hmem, hstatus⟩ := h
  cases x with
  | writeReg n v =>
    by_cases hn : n = 0
    · subst hn
      cases hv : decode v with
      | ok i =>
        rw [perform_writeCmd hv] at ht
        exact exec_inv h ht
      | error e =>
        obtain rfl := (perform_writeCmd_illegal hv).1 ht
        exact ⟨hcfg, hmem, le_refl 10⟩
    · obtain rfl := (perform_writeReg hn v).1 ht
      exact h.of_eq (s.writeReg_cfg n v) (s.writeReg_mem n v) (s.writeReg_status n v)
  | loadBytes b v =>
    have hwf := loadBytes_wf hmem ht
    obtain ⟨-, rfl⟩ := (loadBytes_next b v).1 ht
    exact ⟨hcfg, hwf, hstatus⟩
  | loadCells b v =>
    have hwf := loadCells_wf hmem ht
    obtain ⟨-, rfl⟩ := (loadCells_next b v).1 ht
    exact ⟨hcfg, hwf, hstatus⟩
  | reset =>
    cases ht
    exact ⟨hcfg, Memory.empty_wf s.cfg, Nat.zero_le 10⟩
  | readReg n => cases ht; exact h
  | readBytes b => cases ht; exact h
  | readCells b => cases ht; exact h
  | time d => cases ht; exact h
  | timeFree => cases ht; exact h

/-- Settles O56: a step is idle or one transaction, and every transaction keeps the invariant. -/
theorem stepKeepsInvariant : Obligations.StepKeepsInvariant := by
  intro s t h ht
  obtain ⟨-, hstep⟩ | ⟨x, rest, -, hstep⟩ := step_cases (s := s)
  · cases hstep.symm.trans ht
    exact h
  · have hrest : State.Inv { s with pending := rest } := h
    exact perform_inv hrest (hstep.symm.trans ht)

/-- The default configuration meets the constraints (93_implementation_defined.md part 1.1). -/
theorem Config.default_wellFormed : Config.default.wellFormed = true := by decide

/-- Settles O57: the default configuration is well formed, every buffer is empty and STATUS is 0. -/
theorem resetHasInvariant : Obligations.ResetHasInvariant :=
  ⟨Config.default_wellFormed, reset_mem_wf, Nat.zero_le 10⟩

/-! The step -/

/-- Settles O50, from the rules above. -/
theorem stepRunsTheDecodedCommand : Obligations.StepRunsTheDecodedCommand := by
  refine ⟨fun s rest w i hpending hw => ?_, fun s x rest => step_of_pending, fun s => step_idle, fun s i => ?_⟩
  · rw [step_of_pending hpending, perform_writeCmd hw]
  · have hword : BitVec.ofNat 32 ((encode i).toNat % 2 ^ 32) = encode i := by
      rw [BitVec.toNat_mod_cancel, BitVec.ofNat_toNat, BitVec.setWidth_eq]
    have hpending : (s.withFetchWord 32 (encode i).toNat).pending = .writeReg 0 (encode i) :: s.pending := by
      rw [State.withFetchWord, hword]
    rw [step_of_pending hpending, perform_writeCmd (decode_encode i)]
    rfl

/-! IVCTR -/

/-- GEN_IV adds one to IVCTR; no other command changes it (10_state.md R33). -/
theorem exec_ivctr (h : exec i s = .next t) :
    t.ivctr = s.ivctr + if readsTime i then 1 else 0 := by
  by_cases hctr : .ivctr ∈ writesOf i
  · obtain rfl | rfl : i = .genIvA ∨ i = .genIvB := by cases i <;> simp [writesOf] at hctr ⊢
    · obtain rfl := succeed_next.1 h
      simp [readsTime]
    · obtain rfl := succeed_next.1 h
      simp [readsTime]
  · have htime : readsTime i = false := by
      cases i with
      | genIvA => simp [writesOf] at hctr
      | genIvB => simp [writesOf] at hctr
      | _ => rfl
    obtain ⟨hframe, -⟩ := commandsWriteOnlyWhatIsListed i s t h
    obtain ⟨hhi, hlo⟩ := hframe .ivctr hctr
    simp [State.ivctr, htime, hhi, hlo]

/-- A transaction other than Reset advances IVCTR by one when it is a GEN_IV, and else not at all. -/
theorem perform_ivctr {x : Transaction} (hx : x ≠ .reset) (h : perform x s = .next t) :
    t.ivctr = s.ivctr + if isGenIv x then 1 else 0 := by
  cases x with
  | writeReg n v =>
    by_cases hn : n = 0
    · subst hn
      cases hv : decode v with
      | ok i =>
        rw [perform_writeCmd hv] at h
        simpa [isGenIv, hv] using exec_ivctr h
      | error e =>
        obtain rfl := (perform_writeCmd_illegal hv).1 h
        simp [isGenIv, hv, State.ivctr]
    · obtain rfl := (perform_writeReg hn v).1 h
      simp [isGenIv, hn]
  | loadBytes b v =>
    obtain ⟨-, rfl⟩ := (loadBytes_next b v).1 h
    exact (BitVec.add_zero _).symm
  | loadCells b v =>
    obtain ⟨-, rfl⟩ := (loadCells_next b v).1 h
    exact (BitVec.add_zero _).symm
  | reset => exact absurd rfl hx
  | readReg n => cases h; exact (BitVec.add_zero _).symm
  | readBytes b => cases h; exact (BitVec.add_zero _).symm
  | readCells b => cases h; exact (BitVec.add_zero _).symm
  | time d => cases h; exact (BitVec.add_zero _).symm
  | timeFree => cases h; exact (BitVec.add_zero _).symm

/-- Settles O7, by induction on the transactions. -/
theorem ivctrCountsGenIvCommands : Obligations.IvctrCountsGenIvCommands := by
  intro ts
  induction ts with
  | nil =>
    intro s t _ ht
    cases ht
    simp [countGenIv]
  | cons x xs ih =>
    intro s t hreset ht
    obtain ⟨hx, hxs⟩ : x ≠ .reset ∧ noReset xs = true := by simpa [noReset] using hreset
    obtain ⟨u, hu, ht⟩ : ∃ u, perform x s = .next u ∧ performAll xs u = .next t := by
      unfold performAll at ht
      split at ht
      · exact ⟨_, ‹_›, ht⟩
      · cases ht
      · cases ht
    calc t.ivctr
      _ = u.ivctr + BitVec.ofNat 64 (countGenIv xs) := ih u t hxs ht
      _ = s.ivctr + (if isGenIv x then 1 else 0) + BitVec.ofNat 64 (countGenIv xs) := by rw [perform_ivctr hx hu]
      _ = s.ivctr + BitVec.ofNat 64 (countGenIv (x :: xs)) := by
        simp only [countGenIv, List.countP_cons]
        split
        · rw [BitVec.ofNat_add]; ac_rfl
        · simp

end Sys2Proof.Machine
end

section
/-! PROOFS. The statements about the host's reads, writes and loads (20_memory.md R63 to R65): one rule for each field
a register write may change, what a register reads after a write, what a load refuses. -/

namespace Sys2Proof.Machine

-- Elaborating many proofs at once exhausts the memory limit of the check, as in the model's own tests.
set_option Elab.async false

section
variable (s : State) (n : Nat) (v : Word)

/-! The fields after a register write (10_state.md R26, R34). -/

theorem State.writeReg_p0 : (s.writeReg n v).p0 = if n = 0x02 then v else s.p0 := by
  unfold State.writeReg; split <;> simp_all
theorem State.writeReg_p1 : (s.writeReg n v).p1 = if n = 0x03 then v else s.p1 := by
  unfold State.writeReg; split <;> simp_all
theorem State.writeReg_p2 : (s.writeReg n v).p2 = if n = 0x04 then v else s.p2 := by
  unfold State.writeReg; split <;> simp_all
theorem State.writeReg_p3 : (s.writeReg n v).p3 = if n = 0x05 then v else s.p3 := by
  unfold State.writeReg; split <;> simp_all
theorem State.writeReg_pvHi : (s.writeReg n v).pvHi = if n = 0x06 then v else s.pvHi := by
  unfold State.writeReg; split <;> simp_all
theorem State.writeReg_pvLo : (s.writeReg n v).pvLo = if n = 0x07 then v else s.pvLo := by
  unfold State.writeReg; split <;> simp_all
@[simp] theorem State.writeReg_rvHi : (s.writeReg n v).rvHi = s.rvHi := by
  unfold State.writeReg; split <;> rfl
@[simp] theorem State.writeReg_rvLo : (s.writeReg n v).rvLo = s.rvLo := by
  unfold State.writeReg; split <;> rfl
@[simp] theorem State.writeReg_ivctrHi : (s.writeReg n v).ivctrHi = s.ivctrHi := by
  unfold State.writeReg; split <;> rfl
@[simp] theorem State.writeReg_ivctrLo : (s.writeReg n v).ivctrLo = s.ivctrLo := by
  unfold State.writeReg; split <;> rfl

variable {n}

/-- Only the numbers 2 to 7 are RW registers; a write to another changes nothing (10_state.md R26, R34). -/
theorem State.writeReg_of_not_rw (hn : n < 0x02 ∨ 0x07 < n) : s.writeReg n v = s := by
  unfold State.writeReg
  split
  case h_7 => rfl
  all_goals omega

/-- A RW register reads back what was written (10_state.md R29, R30). -/
theorem State.readReg_writeReg_same (hlo : 0x02 ≤ n) (hhi : n ≤ 0x07) : (s.writeReg n v).readReg n = v := by
  interval_cases n <;> rfl

/-- A register write changes what no other number reads: each number reads one field, and only number n's changes. -/
theorem State.readReg_writeReg_of_ne {m : Nat} (hmn : m ≠ n) : (s.writeReg n v).readReg m = s.readReg m := by
  unfold State.readReg
  split <;>
    simp [State.writeReg_p0, State.writeReg_p1, State.writeReg_p2, State.writeReg_p3, State.writeReg_pvHi,
      State.writeReg_pvLo, hmn.symm]

/-- A number above 0x13 reads 0 (10_state.md R34). -/
theorem State.readReg_of_gt (hn : 0x13 < n) : s.readReg n = 0 := by
  unfold State.readReg
  split
  case h_21 => rfl
  all_goals omega

end

section
variable {s : State}

/-- A load of bytes longer than the capacity is refused (20_memory.md R64). -/
theorem loadBytes_refused {b : LoadByteBuf} {v : List Byte} (h : s.cfg.byteCap b.buf < v.length) :
    loadBytes b v s = .refused .loadTooLong := if_pos h

/-- A load of cells longer than the capacity is refused (20_memory.md R64). -/
theorem loadCells_refused {b : LoadCellBuf} {v : List Cell} (h : s.cfg.cellCap b.buf < v.length) :
    loadCells b v s = .refused .loadTooLong := if_pos h

end

/-- Settles O59, clause by clause: a write to a RW register, a write elsewhere, a read, the map of R26. -/
theorem registerAccessByTheHost : Obligations.RegisterAccessByTheHost := by
  refine ⟨fun s n v hlo hhi => ?_, fun s n v hn => ?_, fun s n => ?_, fun s => ?_⟩
  · exact ⟨s.writeReg n v, (perform_writeReg (by omega) v).2 rfl, s.readReg_writeReg_same v hlo hhi,
      fun m hm => s.readReg_writeReg_of_ne v hm, s.writeReg_mem n v⟩
  · exact (perform_writeReg (by omega) v).2 (s.writeReg_of_not_rw v (by omega)).symm
  · exact ⟨rfl, rfl, s.readReg_of_gt⟩
  · and_intros <;> rfl

/-- Settles O60: a load that fits is one write of its buffer, so the frame is that of the write. -/
theorem bufferAccessByTheHost : Obligations.BufferAccessByTheHost := by
  refine ⟨fun s b v => ⟨fun hfits => ?_, loadBytes_refused⟩, fun s b v => ⟨fun hfits => ?_, loadCells_refused⟩,
    fun s b => rfl, fun s b => rfl⟩
  · exact ⟨s.mem.setBytes b.buf v, (loadBytes_next b v).2 ⟨hfits, rfl⟩, by simp [Memory.bytes_setBytes],
      fun b' hb' => by simp [Memory.bytes_setBytes, hb'], s.mem.cells_setBytes b.buf (v := v)⟩
  · exact ⟨s.mem.setCells b.buf v, (loadCells_next b v).2 ⟨hfits, rfl⟩, by simp [Memory.cells_setCells],
      fun b' hb' => by simp [Memory.cells_setCells, hb'], s.mem.bytes_setCells b.buf (v := v)⟩

end Sys2Proof.Machine
end

section
/-! PROOFS. The statements about the encoding of commands (30_encoding.md R90 to R94): a word without ZERO bits is its
three fields, each format fixes the fields it must, and a row's mask leaves out DIR alone. -/

namespace Sys2Proof.Machine

-- Elaborating many proofs at once exhausts the memory limit of the check, as in the model's own tests.
set_option Elab.async false

variable {w : Word} {i j : Instr}

/-- Settles O47: every command decodes from its word, DIR included where the word admits both values. -/
theorem decodeOfEncodeIsIdentity : Obligations.DecodeOfEncodeIsIdentity := fun i _ => decode_encode i

/-! The fields of a word (30_encoding.md R90). -/

/-- A bit that is not 0 is 1. -/
theorem eq_one_of_ne_zero {b : BitVec 1} (h : b ≠ 0) : b = 1 := by revert b; decide

/-- A word whose ZERO field is 0 is put together from its other fields. -/
theorem eq_encodeFields (h : zeroField w = 0) :
    w = encodeFields (BitVec.ofNat 8 (opcField w)) (dirField w) (selField w) := by
  have hparts : w = zeroField w ++ selField w ++ dirField w ++ w.extractLsb' 0 8 := by
    refine BitVec.eq_of_getLsbD_eq fun k hk => ?_
    simp only [BitVec.getLsbD_append, zeroField, selField, dirField, BitVec.getLsbD_extractLsb']
    split_ifs with hopc hdir hsel
    · simp [hopc]
    · simp [hdir, show 8 + (k - 8) = k by omega]
    · simp [hsel, show 9 + (k - 8 - 1) = k by omega]
    · simp [show k - 8 - 1 - 1 < 22 by omega, show 10 + (k - 8 - 1 - 1) = k by omega]
  calc w
    _ = _ := hparts
    _ = _ := by rw [h, encodeFields, opcField, BitVec.ofNat_toNat, BitVec.setWidth_eq]; rfl

/-! The formats (30_encoding.md R91): what a word decodes to has the word's DIR and SEL in its
own word. -/

section
variable {opc : BitVec 8}

theorem encode_of_decodeF0 (h : decodeF0 w i = .ok j) (hi : encode i = encodeFields opc 0 0) :
    encode j = encodeFields opc (dirField w) (selField w) := by
  unfold decodeF0 at h
  split_ifs at h with hdir hsel
  cases h
  rw [not_not.1 hdir, not_not.1 hsel, hi]

theorem encode_of_decodeFD {e d : Instr} (h : decodeFD w e d = .ok j) (he : encode e = encodeFields opc 0 0)
    (hd : encode d = encodeFields opc 1 0) : encode j = encodeFields opc (dirField w) (selField w) := by
  unfold decodeFD at h
  split_ifs at h with hsel hdir
  · cases h
    rw [hdir, not_not.1 hsel, he]
  · cases h
    rw [eq_one_of_ne_zero hdir, not_not.1 hsel, hd]

theorem encode_of_decodeFS {a b : Instr} (h : decodeFS w a b = .ok j) (ha : encode a = encodeFields opc 0 0)
    (hb : encode b = encodeFields opc 0 1) : encode j = encodeFields opc (dirField w) (selField w) := by
  unfold decodeFS at h
  split_ifs at h with hdir hsel
  · cases h
    rw [not_not.1 hdir, hsel, ha]
  · cases h
    rw [not_not.1 hdir, eq_one_of_ne_zero hsel, hb]

theorem encode_of_decodeFX {f : BitVec 1 → Instr} (h : decodeFX w f = .ok j)
    (hf : ∀ dir, encode (f dir) = encodeFields opc dir 0) :
    encode j = encodeFields opc (dirField w) (selField w) := by
  unfold decodeFX at h
  split_ifs at h with hsel
  cases h
  rw [not_not.1 hsel, hf]

end

/-- What an opcode decodes to has that opcode and the word's DIR and SEL in its own word: one case for each row of
30_encoding.md R93, by its format. -/
theorem encode_of_decodeOpc {opc : Nat} (h : decodeOpc w opc = .ok i) :
    encode i = encodeFields (BitVec.ofNat 8 opc) (dirField w) (selField w) := by
  unfold decodeOpc at h
  split at h
  case h_26 => cases h
  case h_1 | h_2 | h_5 | h_6 | h_8 | h_24 | h_25 => exact encode_of_decodeF0 h rfl
  case h_3 | h_4 | h_21 | h_22 => exact encode_of_decodeFS h rfl rfl
  case h_7 | h_13 | h_20 => exact encode_of_decodeFX h fun _ => rfl
  all_goals exact encode_of_decodeFD h rfl rfl

/-- A word decodes to a command exactly when it is that command's word (30_encoding.md R94). -/
theorem decode_ok_iff : decode w = .ok i ↔ w = encode i := by
  refine ⟨fun h => ?_, fun h => h ▸ decode_encode i⟩
  unfold decode at h
  split at h
  · cases h
  · next hzero => rw [encode_of_decodeOpc h]; exact eq_encodeFields (not_not.1 hzero)

/-- Two commands with one word are one command. -/
theorem encode_injective : Function.Injective encode := fun i _ h =>
  Except.ok.inj ((decode_encode i).symm.trans (decode_ok_iff.2 h))

/-! Match and mask (30_encoding.md R94). -/

/-- The command of the same row with DIR as given, where the row leaves DIR free (30_encoding.md R91). -/
def withDir (dir : BitVec 1) : Instr → Instr
  | .aCtr _ => .aCtr dir
  | .rot13 _ => .rot13 dir
  | .pass _ => .pass dir
  | i => i

/-- A row has one match value, whatever DIR. -/
@[simp] theorem rowMatch_withDir (dir : BitVec 1) : rowMatch (withDir dir i) = rowMatch i := by
  cases i with
  | aCtr dir' => revert dir dir'; decide
  | rot13 dir' => revert dir dir'; decide
  | pass dir' => revert dir dir'; decide
  | _ => rfl

/-- The mask of an FX row leaves out DIR and no other bit. -/
theorem eq_of_and_eq_of_dirField_eq {v : Word} (h : w &&& 0xFFFFFEFF#32 = v &&& 0xFFFFFEFF#32)
    (hdir : dirField w = dirField v) : w = v := by
  have hmask : ∀ k < 32, k ≠ 8 → (0xFFFFFEFF#32).getLsbD k = true := by decide
  refine BitVec.eq_of_getLsbD_eq fun k hk => ?_
  by_cases h8 : k = 8
  · subst h8
    simpa [dirField] using congrArg (·.getLsbD 0) hdir
  · simpa [hmask k hk h8] using congrArg (·.getLsbD k) h

/-- A word matches an FX row exactly when it is the row's word with the word's own DIR. -/
theorem matches_fx_iff {f : BitVec 1 → Instr} (hmask : ∀ dir, rowMask (f dir) = 0xFFFFFEFF#32)
    (hmatch : ∀ dir dir', rowMatch (f dir) = rowMatch (f dir')) (hdir : ∀ dir, dirField (encode (f dir)) = dir)
    (dir : BitVec 1) : w &&& rowMask (f dir) = rowMatch (f dir) ↔ w = encode (f (dirField w)) := by
  rw [hmatch dir (dirField w), hmask, rowMatch, hmask]
  exact ⟨fun h => eq_of_and_eq_of_dirField_eq h (hdir _).symm, fun h => congrArg (· &&& 0xFFFFFEFF#32) h⟩

/-- A word matches a row exactly when it is the word of a command of the row. -/
theorem matches_row_iff : w &&& rowMask i = rowMatch i ↔ w = encode (withDir (dirField w) i) := by
  cases i with
  | aCtr dir => exact matches_fx_iff (fun _ => rfl) (by decide) (by decide) dir
  | rot13 dir => exact matches_fx_iff (fun _ => rfl) (by decide) (by decide) dir
  | pass dir => exact matches_fx_iff (fun _ => rfl) (by decide) (by decide) dir
  | _ => exact Iff.of_eq (congrArg₂ (· = ·) BitVec.and_allOnes BitVec.and_allOnes)

/-- Settles O48: legal words are the words of commands, and a match is a command's word up to DIR. -/
theorem decodeAcceptsExactlyTheTable : Obligations.DecodeAcceptsExactlyTheTable := by
  refine ⟨fun w i => decode_ok_iff, fun w => ⟨?_, ?_⟩, fun w i j hi hj => ?_⟩
  · rintro ⟨i, hi⟩
    exact ⟨i, decode_ok_iff.1 hi ▸ rfl⟩
  · rintro ⟨i, hi⟩
    exact ⟨_, decode_ok_iff.2 (matches_row_iff.1 hi)⟩
  · have hrow : withDir (dirField w) i = withDir (dirField w) j :=
      encode_injective ((matches_row_iff.1 hi).symm.trans (matches_row_iff.1 hj))
    calc rowMatch i
      _ = rowMatch (withDir (dirField w) i) := (rowMatch_withDir _).symm
      _ = rowMatch j := by rw [hrow, rowMatch_withDir]

/-- Settles O49: each printed word is its command's word. -/
theorem printedWordsDecode : Obligations.PrintedWordsDecode := by
  simp only [Obligations.PrintedWordsDecode, decode_ok_iff]
  decide

end Sys2Proof.Machine
end

section
/-! SUPPORT. Bytes as big-endian numbers (spec/40_utilities.md R120), and XOR of byte sequences undone (R121). -/

namespace Sys2Proof.Machine

-- Elaborating many proofs at once exhausts the memory limit of the check, as in the model's own tests.
set_option Elab.async false

/-- A last byte is the least significant. -/
@[simp] theorem be_append_singleton (b : List Byte) (x : Byte) : be (b ++ [x]) = be b * 256 + x.toNat := by
  simp [be]

/-- The last byte of `unbe` is the value modulo 256, and the bytes before it are of the value without it. -/
theorem unbe_succ (n v : Nat) : unbe (n + 1) v = unbe n (v / 256) ++ [BitVec.ofNat 8 v] := by
  have hbefore : ∀ i ∈ List.range n,
      BitVec.ofNat 8 (v >>> (8 * (n + 1 - 1 - i))) = BitVec.ofNat 8 ((v / 256) >>> (8 * (n - 1 - i))) := by
    intro i hi
    have hshift : 8 * (n + 1 - 1 - i) = 8 + 8 * (n - 1 - i) := by have := List.mem_range.1 hi; omega
    rw [hshift, Nat.shiftRight_add, Nat.shiftRight_eq_div_pow v 8]
  rw [unbe, List.range_succ, List.map_append, List.map_congr_left hbefore]
  simp [unbe]

/-- `unbe` undoes `be`. -/
theorem unbe_be (b : List Byte) : unbe b.length (be b) = b := by
  induction b using List.reverseRecOn with
  | nil => rfl
  | append_singleton b x ih =>
    have hdiv : (be b * 256 + x.toNat) / 256 = be b := by omega
    have hlast : BitVec.ofNat 8 (be b * 256 + x.toNat) = x := BitVec.eq_of_toNat_eq (by simp [Nat.mod_eq_of_lt x.isLt])
    rw [List.length_append, List.length_singleton, unbe_succ, be_append_singleton, hdiv, ih, hlast]

/-- `be` undoes `unbe` up to what the bytes hold. -/
theorem be_unbe (n v : Nat) : be (unbe n v) = v % 256 ^ n := by
  induction n generalizing v with
  | zero => simp [unbe, be, Nat.mod_one]
  | succ n ih =>
    rw [unbe_succ, be_append_singleton, ih, BitVec.toNat_ofNat, Nat.pow_succ' (m := 256), Nat.mod_mul]
    omega

/-- The value of n bytes is below 256^n. -/
theorem be_lt (b : List Byte) : be b < 256 ^ b.length := by
  calc be b
    _ = be (unbe b.length (be b)) := by rw [unbe_be]
    _ < 256 ^ b.length := by rw [be_unbe]; exact Nat.mod_lt _ (by positivity)

/-- XOR with the same bytes twice. -/
theorem xorb_xorb_cancel {a k : List Byte} (h : a.length ≤ k.length) : xorb (xorb a k) k = a := by
  induction a generalizing k with
  | nil => simp [xorb]
  | cons x a ih =>
    cases k with
    | nil => simp at h
    | cons y k => simpa [xorb, BitVec.xor_assoc] using ih (Nat.le_of_succ_le_succ h)

end Sys2Proof.Machine
end

section
/-! SUPPORT. Base64 decoding undoes encoding (spec/46_envelope.md R321, R324). -/

namespace Sys2Proof.Machine

-- Elaborating many proofs at once exhausts the memory limit of the check, as in the model's own tests.
set_option Elab.async false

/-- The alphabet read back (46_envelope.md R320). -/
theorem b64Value_b64Char {v : Nat} (hv : v < 64) : b64Value (b64Char v) = some v := by
  have hall : ∀ v < 64, b64Value (b64Char v) = some v := by decide
  exact hall v hv

/-- The pad character is not in the alphabet (46_envelope.md R320). -/
theorem b64GroupChar_ne_pad (v j : Nat) : b64GroupChar v j ≠ b64Pad := by
  have hall : ∀ v < 64, b64Char v ≠ b64Pad := by decide
  exact hall _ (Nat.mod_lt _ (by decide))

theorem b64Values_nil (acc : Nat) : b64Values [] acc = some acc := rfl

/-- A group's character adds its six bits to the value read so far. -/
theorem b64Values_cons_groupChar (v j acc : Nat) (cs : List Byte) :
    b64Values (b64GroupChar v j :: cs) acc = b64Values cs (acc * 64 + v >>> (18 - 6 * j) % 64) := by
  rw [b64Values, b64GroupChar, b64Value_b64Char (Nat.mod_lt _ (by decide))]

/-- The first k characters of a group give its first 6k bits. -/
theorem b64Values_groupChars {v k : Nat} (hv : v < 2 ^ 24) (hk : k ≤ 4) :
    b64Values ((List.range k).map (b64GroupChar v)) 0 = some (v >>> (24 - 6 * k)) := by
  interval_cases k <;>
    simp only [List.range, List.range.loop, List.map, b64Values_cons_groupChar, b64Values_nil, Option.some.injEq,
      Nat.shiftRight_eq_div_pow]
  all_goals omega

/-- A group of which `pad` characters are missing gives the first bytes of its value, when the bits that the missing
characters would hold are 0. -/
theorem b64Group_groupChars {q : List Byte} {v pad : Nat} (hv : v < 2 ^ 24) (hpad : pad ≤ 2)
    (hzero : 2 ^ (6 * pad) ∣ v) (hq : q.take (4 - pad) = (List.range (4 - pad)).map (b64GroupChar v)) :
    b64Group q pad = some ((unbe 3 v).take (3 - pad)) := by
  have hbits : v >>> (24 - 6 * (4 - pad)) <<< (6 * pad) = v := by
    rw [show 24 - 6 * (4 - pad) = 6 * pad by omega, Nat.shiftRight_eq_div_pow, Nat.shiftLeft_eq,
      Nat.div_mul_cancel hzero]
  rw [b64Group, hq, b64Values_groupChars hv (by omega)]
  simp only [hbits]

/-- `b64_dec` undoes `b64_enc` (46_envelope.md R324 (a)), group by group. -/
theorem b64Dec_b64Enc (b : List Byte) : b64Dec (b64Enc b) = some b := by
  have hlt (x y z : Byte) : be [x, y, z] < 2 ^ 24 := (be_lt [x, y, z]).trans_eq (by norm_num)
  have hbytes (x y z : Byte) : unbe 3 (be [x, y, z]) = [x, y, z] := unbe_be [x, y, z]
  fun_induction b64Enc b with
  | case1 => rfl
  | case2 a v =>
    have hv : v = be [a, 0, 0] := by simp [v, be, Nat.shiftLeft_eq, Nat.mul_assoc]
    have hzero : 2 ^ (6 * 2) ∣ v := ⟨16 * be [a], (Nat.shiftLeft_eq ..).trans (by omega)⟩
    rw [b64Dec, b64PadCount, if_pos rfl, if_pos rfl, b64Group_groupChars (hv ▸ hlt a 0 0) le_rfl hzero rfl, hv,
      hbytes]
    rfl
  | case3 a b v =>
    have hv : v = be [a, b, 0] := by simp [v, be, Nat.shiftLeft_eq]
    have hzero : 2 ^ (6 * 1) ∣ v := ⟨4 * be [a, b], (Nat.shiftLeft_eq ..).trans (by omega)⟩
    rw [b64Dec, b64PadCount, if_pos rfl, if_neg (b64GroupChar_ne_pad v 2),
      b64Group_groupChars (hv ▸ hlt a b 0) (by decide) hzero rfl, hv, hbytes]
    rfl
  | case4 a b c rest v ih =>
    have hgroup : b64Group [b64GroupChar v 0, b64GroupChar v 1, b64GroupChar v 2, b64GroupChar v 3] 0 =
        some [a, b, c] := by
      rw [b64Group_groupChars (hlt a b c) (by decide) (one_dvd _) rfl, hbytes]
      rfl
    cases rest with
    | nil => rw [b64Enc, b64Dec, b64PadCount, if_neg (b64GroupChar_ne_pad v 3), hgroup]
    | cons d rest =>
      have hne : b64Enc (d :: rest) ≠ [] := by
        rw [← List.length_pos_iff, b64Enc_length, List.length_cons]
        omega
      rw [b64Dec, hgroup, ih]
      · rfl
      · exact hne

end Sys2Proof.Machine
end

section
/-! SUPPORT. Counter mode undoes itself (spec/42_cipher_a_spn.md R172, R178 (a)). -/

namespace Sys2Proof.Machine

-- Elaborating many proofs at once exhausts the memory limit of the check, as in the model's own tests.
set_option Elab.async false

/-- A word of the key expansion has four bytes (42_cipher_a_spn.md R163). -/
theorem nextWord_length {w : List Byte} {i : Nat} (hi : 16 ≤ i) (hw : w.length = i) : (nextWord w i).length = 4 := by
  have hprev : (prevWord w i).length = 4 := by
    unfold prevWord
    split
    · rfl
    · simp only [List.length_take, List.length_drop]; omega
  simp only [nextWord, xorb_length, List.length_take, List.length_drop, hprev]
  omega

/-- The key expansion gives eleven round keys of 16 bytes (42_cipher_a_spn.md R163). -/
theorem keyexpA_length {key : List Byte} (hkey : key.length = 16) : (keyexpA key).length = 176 := by
  have grow (n : Nat) :
      ((List.range n).foldl (fun w k => w ++ nextWord w (16 + 4 * k)) key).length = 16 + 4 * n := by
    induction n with
    | zero => exact hkey
    | succ n ih =>
      rw [List.range_succ, List.foldl_append, List.foldl_cons, List.foldl_nil, List.length_append,
        nextWord_length (by omega) ih, ih]
      omega
  exact grow 40

/-- With an expanded key a block comes out as sixteen bytes (42_cipher_a_spn.md R169). -/
theorem encblockA_length {w : List Byte} (hw : w.length = 176) (blk : List Byte) : (encblockA w blk).length = 16 := by
  simp [encblockA, ark, roundKeyA, hw]

/-- A first chunk of at most n elements, short only when nothing follows, is split off again. -/
theorem take_drop_chunk {α : Type} {n : Nat} {a b : List α} (ha : a.length ≤ n) (hb : a.length < n → b = []) :
    (a ++ b).take n = a ∧ (a ++ b).drop n = b := by
  obtain h | h := Nat.lt_or_eq_of_le ha
  · simp [hb h, ha]
  · simp [← h]

variable {w : List Byte} {k : Nat} {data : List Byte}

/-- Counter mode keeps the length, given chunks enough (42_cipher_a_spn.md R172). -/
theorem ctrLoop_length (hw : w.length = 176) (hk : data.length ≤ 16 * k) (ctr : List Byte) :
    (ctrLoop w k ctr data).length = data.length := by
  induction k generalizing ctr data with
  | zero => simp [ctrLoop]; omega
  | succ k ih =>
    have hrest := ih (data := data.drop 16) (by rw [List.length_drop]; omega) (inc128 ctr)
    simp only [ctrLoop, List.length_append, hrest, xorb_length, List.length_take, List.length_drop,
      encblockA_length hw]
    omega

/-- Counter mode from one counter value is its own inverse: both passes XOR the same keystream, chunk by chunk. -/
theorem ctrLoop_ctrLoop (hw : w.length = 176) (hk : data.length ≤ 16 * k) (ctr : List Byte) :
    ctrLoop w k ctr (ctrLoop w k ctr data) = data := by
  induction k generalizing ctr data with
  | zero => simp at hk; simp [ctrLoop, hk]
  | succ k ih =>
    have hdrop : (data.drop 16).length ≤ 16 * k := by rw [List.length_drop]; omega
    have hrest := ctrLoop_length hw hdrop (inc128 ctr)
    let stream := (encblockA w ctr).take (min 16 data.length)
    let chunk := xorb (data.take 16) stream
    have hstream : (data.take 16).length ≤ stream.length := by
      rw [List.length_take, List.length_take, encblockA_length hw]; omega
    have hchunk : chunk.length = min 16 data.length := by
      rw [xorb_length, Nat.min_eq_left hstream, List.length_take]
    obtain ⟨htake, hdrop'⟩ := take_drop_chunk (a := chunk) (b := ctrLoop w k (inc128 ctr) (data.drop 16)) (n := 16)
      (by omega) fun hshort => List.eq_nil_of_length_eq_zero (by rw [hrest, List.length_drop]; omega)
    have hlen : (ctrLoop w (k + 1) ctr data).length = data.length := ctrLoop_length hw hk ctr
    calc ctrLoop w (k + 1) ctr (ctrLoop w (k + 1) ctr data)
      _ = xorb chunk stream ++ ctrLoop w k (inc128 ctr) (ctrLoop w k (inc128 ctr) (data.drop 16)) := by
        rw [ctrLoop, hlen]
        simp only [ctrLoop]
        rw [htake, hdrop']
      _ = data.take 16 ++ data.drop 16 := by rw [xorb_xorb_cancel hstream, ih hdrop]
      _ = data := List.take_append_drop 16 data

end Sys2Proof.Machine
end

section
/-! SUPPORT. Cipher B's block transform undone by the reversed subkeys, and chained mode by chained mode
(spec/43_cipher_b_feistel.md R204 to R211). -/

namespace Sys2Proof.Machine

-- Elaborating many proofs at once exhausts the memory limit of the check, as in the model's own tests.
set_option Elab.async false

/-! Bit permutations (40_utilities.md R124) -/

/-- The last entry of a table gives the least significant bit. -/
theorem permute_append_singleton (v nIn : Nat) (t : List Nat) (p : Nat) :
    permute v nIn (t ++ [p]) = permute v nIn t * 2 + (v >>> (nIn - p)) % 2 := by
  simp [permute]

/-- Bit i from the least significant end is the input bit that the i-th entry from the end names. -/
theorem testBit_permute (v nIn : Nat) {t : List Nat} {i : Nat} (hi : i < t.length) :
    (permute v nIn t).testBit i = v.testBit (nIn - t.getD (t.length - 1 - i) 0) := by
  induction t using List.reverseRecOn generalizing i with
  | nil => simp at hi
  | append_singleton t p ih =>
    rw [permute_append_singleton, List.length_append, List.length_singleton]
    cases i with
    | zero =>
      simp [Nat.testBit_eq_decide_div_mod_eq, Nat.shiftRight_eq_div_pow]
    | succ i =>
      have hi : i < t.length := by simpa using hi
      rw [List.getD_append _ _ _ _ (by omega), show t.length + 1 - 1 - (i + 1) = t.length - 1 - i by omega, ← ih hi,
        Nat.testBit_succ]
      congr 1
      omega

/-- The permutation by t' undoes the permutation by t: seen from the least significant end, bit i comes back to i. -/
def undoes (t' t : List Nat) : Prop :=
  t.length = 64 ∧ t'.length = 64 ∧
    ∀ i < 64, 64 - t'.getD (63 - i) 0 < 64 ∧ 64 - t.getD (63 - (64 - t'.getD (63 - i) 0)) 0 = i

theorem permuteTo_permuteTo_of_undoes {t t' : List Nat} (h : undoes t' t) (v : BitVec 64) :
    permuteTo 64 (permuteTo 64 v t) t' = v := by
  obtain ⟨ht, ht', hundo⟩ := h
  refine BitVec.eq_of_getLsbD_eq fun i hi => ?_
  obtain ⟨hlt, hback⟩ := hundo i hi
  simp only [permuteTo, BitVec.getLsbD_ofNat, BitVec.toNat_ofNat]
  rw [testBit_permute _ _ (ht' ▸ hi), Nat.testBit_mod_two_pow, ht', decide_eq_true hlt,
    testBit_permute _ _ (hlt.trans_eq ht.symm), ht, hback]
  simp [hi, BitVec.testBit_toNat]

/-- `FP` undoes `IP` (43_cipher_b_feistel.md R197). -/
theorem tableFP_undoes_tableIP : undoes tableFP tableIP := ⟨rfl, rfl, by decide⟩

/-- `IP` undoes `FP` (43_cipher_b_feistel.md R197). -/
theorem tableIP_undoes_tableFP : undoes tableIP tableFP := ⟨rfl, rfl, by decide⟩

/-! The block transform (43_cipher_b_feistel.md R204, R205) -/

theorem roundsB_append (ks ks' : List (BitVec 48)) (l r : BitVec 32) :
    roundsB (ks ++ ks') l r = roundsB ks' (roundsB ks l r).1 (roundsB ks l r).2 := by
  induction ks generalizing l r with
  | nil => rfl
  | cons k ks ih => exact ih r (l ^^^ feistelB r k)

/-- The rounds in the opposite order, on the swapped halves, undo the rounds. -/
theorem roundsB_reverse (ks : List (BitVec 48)) (l r : BitVec 32) :
    roundsB ks.reverse (roundsB ks l r).2 (roundsB ks l r).1 = (r, l) := by
  induction ks generalizing l r with
  | nil => rfl
  | cons k ks ih =>
    rw [List.reverse_cons, roundsB_append, show roundsB (k :: ks) l r = roundsB ks r (l ^^^ feistelB r k) from rfl, ih]
    simp [roundsB]

/-- The block transform with the subkeys reversed undoes the block transform. -/
theorem blockB64_reverse (ks : List (BitVec 48)) (v : BitVec 64) : blockB64 ks.reverse (blockB64 ks v) = v := by
  simp only [blockB64, permuteTo_permuteTo_of_undoes tableIP_undoes_tableFP, BitVec.extractLsb'_append_eq_left,
    BitVec.extractLsb'_append_eq_right, roundsB_reverse, append_halves,
    permuteTo_permuteTo_of_undoes tableFP_undoes_tableIP]

/-- Decrypting a block undoes encrypting it (43_cipher_b_feistel.md R205). -/
theorem blockB_dec_enc (sk : List (BitVec 48)) {blk : List Byte} (hblk : blk.length = 8) :
    blockB sk (blockB sk blk .enc) .dec = blk := by
  have hread (x : BitVec 64) : BitVec.ofNat 64 (be (unbe 8 x.toNat)) = x := by
    rw [be_unbe, Nat.mod_eq_of_lt (x.isLt.trans_eq (by norm_num)), BitVec.ofNat_toNat, BitVec.setWidth_eq]
  have hfits : be blk < 2 ^ 64 := (hblk ▸ be_lt blk).trans_eq (by norm_num)
  simp only [blockB, subkeyOrder, hread, blockB64_reverse, BitVec.toNat_ofNat, Nat.mod_eq_of_lt hfits]
  exact hblk ▸ unbe_be blk

/-! Padding and chaining (43_cipher_b_feistel.md R206 to R209) -/

/-- Removing the padding undoes adding it (43_cipher_b_feistel.md R207). -/
theorem unpad7_pad7 (m : List Byte) : unpad7 (pad7 m) = some m := by
  obtain ⟨hpos, hle⟩ := padLen_bounds m.length
  have hlast : (pad7 m).getLast? = some (BitVec.ofNat 8 (padLen m.length)) := by
    rw [pad7, List.getLast?_append, List.getLast?_replicate, if_neg (by omega)]
    rfl
  have hnum : (BitVec.ofNat 8 (padLen m.length)).toNat = padLen m.length := by
    rw [BitVec.toNat_ofNat]; omega
  have hcut : (pad7 m).length - padLen m.length = m.length := by rw [pad7_length]; omega
  simp only [unpad7, hlast, hnum, hcut]
  rw [if_neg (by omega), if_neg]
  · simp [pad7]
  · simp [pad7]

/-- Chained decryption undoes chained encryption, block by block (43_cipher_b_feistel.md R209). -/
theorem cbcDecLoop_cbcEncLoop (sk : List (BitVec 48)) {k : Nat} {prev q : List Byte} (hprev : prev.length = 8)
    (hq : q.length = 8 * k) : cbcDecLoop sk k prev (cbcEncLoop sk k prev q) = q := by
  induction k generalizing prev q with
  | zero => exact (List.eq_nil_of_length_eq_zero (by omega)).symm
  | succ k ih =>
    have hblock : (q.take 8).length = 8 := by rw [List.length_take]; omega
    have hmixed : (xorb (q.take 8) prev).length = 8 := by rw [xorb_length]; omega
    have hrest : (q.drop 8).length = 8 * k := by rw [List.length_drop]; omega
    simp only [cbcEncLoop, cbcDecLoop, List.take_left' (blockB_length _ _ _), List.drop_left' (blockB_length _ _ _)]
    rw [blockB_dec_enc sk hmixed, xorb_xorb_cancel (by omega), ih (blockB_length _ _ _) hrest,
      List.take_append_drop]

/-- `cbc_dec_b` undoes `cbc_enc_b` (43_cipher_b_feistel.md R211 (a)). -/
theorem cbcDecB_cbcEncB (sk : List (BitVec 48)) {iv : List Byte} (hiv : iv.length = 8) (m : List Byte) :
    cbcDecB sk iv (cbcEncB sk iv m) = some m := by
  have hblocks : (pad7 m).length = 8 * ((pad7 m).length / 8) := by rw [pad7_length, padLen]; omega
  rw [cbcDecB, cbcEncB, cbcEncLoop_length, Nat.mul_div_cancel_left _ (by decide),
    cbcDecLoop_cbcEncLoop sk hiv hblocks, unpad7_pad7]

end Sys2Proof.Machine
end

section
/-! PROOFS. The macros of 30_encoding.md R98, both ciphers at once: the host runs one command after another, each
answering its effect, and the commands of DECRYPT undo what the commands of ENCRYPT did. -/

namespace Sys2Proof.Machine

-- Elaborating many proofs at once exhausts the memory limit of the check, as in the model's own tests.
set_option Elab.async false

variable {s : State} {i : Instr} {ts : List Transaction}

/-! One transaction of a host sequence (30_encoding.md R98). -/

/-- The sequence ends in a next state of which P holds. -/
def Ends (ts : List Transaction) (s : State) (P : State → Prop) : Prop := ∃ t, runMacro ts s = .next t ∧ P t

namespace Ends
variable {P : State → Prop}

/-- The end of the sequence. -/
theorem done (h : P s) : Ends [] s P := ⟨s, rfl, h⟩

/-- A command that succeeds is followed by the rest of the sequence. -/
theorem command {e : Effect} (h : exec i s = .next (e.after s)) (hok : e.code = .ok) (hrest : Ends ts (e.after s) P) :
    Ends (command i :: ts) s P := by
  have hperform : perform (.writeReg 0 (encode i)) s = .next (e.after s) :=
    (perform_writeCmd (decode_encode i) s).trans h
  have hstatus : (e.after s).status = 0 := e.after_status.trans (Code.word_eq_zero.2 hok)
  obtain ⟨t, ht, hP⟩ := hrest
  exact ⟨t, by simpa only [runMacro, Machine.command, hperform, hstatus, bne_self_eq_false, Bool.and_false,
    Bool.false_eq_true, if_false] using ht, hP⟩

/-- A load of DIN that fits is followed by the rest of the sequence. -/
theorem loadDin {v : List Byte} (hv : v.length ≤ s.cfg.bufCap) (hrest : Ends ts (s.putBytes .din v) P) :
    Ends (.loadBytes .din v :: ts) s P := by
  have hperform : perform (.loadBytes .din v) s = .next (s.putBytes .din v) := (loadBytes_next .din v).2 ⟨hv, rfl⟩
  obtain ⟨t, ht, hP⟩ := hrest
  exact ⟨t, by simpa only [runMacro, hperform, isCommandWrite, Bool.false_and, Bool.false_eq_true, if_false] using ht,
    hP⟩

/-- A read is followed by the rest of the sequence. -/
theorem readBytes {b : ByteBuf} (hrest : Ends ts (s.answerRead (.bytes (s.mem.bytes b))) P) :
    Ends (.readBytes b :: ts) s P := hrest

end Ends

/-! The commands both ciphers use, where they succeed (46_envelope.md R322, R323, R334). -/

theorem exec_movb (s : State) : exec .movb s = .next ((Effect.bytes .din s.mem.dout).after s) := rfl

theorem exec_b64E (h : 4 * ((s.mem.din.length + 2) / 3) ≤ s.cfg.bufCap) :
    exec .b64E s = .next ((Effect.bytes .dout (b64Enc s.mem.din)).after s) := if_neg (Nat.not_lt.2 h)

theorem exec_b64D {v : List Byte} (h : b64Dec s.mem.din = some v) :
    exec .b64D s = .next ((Effect.bytes .dout v).after s) := by
  show finishBytes .b64 (b64Dec s.mem.din) s = _
  rw [h]
  rfl

/-! The commands of one cipher. -/

/-- One cipher's part in the macros: the length of its key and IV, its commands, and its mode as a function of KEY, IV
and the message. -/
structure Suite where
  size : Nat
  derive : Instr
  genIv : Instr
  encrypt : Instr
  decrypt : Instr
  pack : Instr
  unpack : Instr
  encipher (key iv m : List Byte) : List Byte

namespace Suite

/-- Encryption with a suite's commands (30_encoding.md R98). -/
def encryption (c : Suite) (pw m : List Byte) : List Transaction :=
  [.loadBytes .din pw, command c.derive, command c.genIv, .loadBytes .din m, command c.encrypt, command .movb,
   command c.pack, command .movb, command .b64E, .readBytes .dout]

/-- Decryption with a suite's commands (30_encoding.md R98). -/
def decryption (c : Suite) (pw text : List Byte) : List Transaction :=
  [.loadBytes .din pw, command c.derive, .loadBytes .din text, command .b64D, command .movb, command c.unpack,
   command .movb, command c.decrypt, .readBytes .dout]

/-- What the macros need of a suite's commands: each does its part on operands of the right length, and `decrypt`
gives back what was enciphered. -/
structure Lawful (c : Suite) : Prop where
  exec_derive : ∀ s, exec c.derive s = .next ((Effect.bytes .key (deriveKey s.mem.din c.size)).after s)
  exec_genIv : ∀ s, ∃ iv ctr, iv.length = c.size ∧ exec c.genIv s = .next ((Effect.freshIv iv ctr).after s)
  exec_encrypt : ∀ s, s.mem.key.length = c.size → s.mem.iv.length = c.size →
    (c.encipher s.mem.key s.mem.iv s.mem.din).length ≤ s.cfg.bufCap →
    exec c.encrypt s = .next ((Effect.bytes .dout (c.encipher s.mem.key s.mem.iv s.mem.din)).after s)
  exec_decrypt : ∀ s m, s.mem.key.length = c.size → s.mem.iv.length = c.size →
    s.mem.din = c.encipher s.mem.key s.mem.iv m → exec c.decrypt s = .next ((Effect.bytes .dout m).after s)
  exec_pack : ∀ s, s.mem.iv.length = c.size → c.size + s.mem.din.length ≤ s.cfg.bufCap →
    exec c.pack s = .next ((Effect.bytes .dout (s.mem.iv ++ s.mem.din)).after s)
  exec_unpack : ∀ s, c.size ≤ s.mem.din.length →
    exec c.unpack s = .next ((Effect.unpacked (s.mem.din.take c.size) (s.mem.din.drop c.size)).after s)

variable {c : Suite} {pw m : List Byte}

/-- The text that encryption leaves for an IV (46_envelope.md R310, R321). -/
def text (c : Suite) (pw iv m : List Byte) : List Byte := b64Enc (iv ++ c.encipher (deriveKey pw c.size) iv m)

/-- Encryption ends with OK and the text for some IV in DOUT. -/
theorem Lawful.encryption_ends (hc : c.Lawful) (hpw : pw.length ≤ s.cfg.bufCap) (hm : m.length ≤ s.cfg.bufCap)
    (hfits : ∀ key iv, key.length = c.size → iv.length = c.size →
      4 * ((c.size + (c.encipher key iv m).length + 2) / 3) ≤ s.cfg.bufCap) :
    Ends (c.encryption pw m) s fun t => t.status = 0 ∧ t.cfg = s.cfg ∧
      ∃ iv, iv.length = c.size ∧ t.mem.dout = c.text pw iv m := by
  obtain ⟨iv, ctr, hiv, hgen⟩ :=
    hc.exec_genIv ((Effect.bytes .key (deriveKey pw c.size)).after (s.putBytes .din pw))
  have hroom := hfits _ iv (deriveKey_length pw c.size) hiv
  refine .loadDin hpw <| .command (hc.exec_derive _) rfl <| .command hgen rfl <| .loadDin hm <|
    .command (hc.exec_encrypt _ ?key ?iv ?cap) rfl <| .command (exec_movb _) rfl <|
    .command (hc.exec_pack _ ?packIv ?packCap) rfl <| .command (exec_movb _) rfl <|
    .command (exec_b64E ?b64Cap) rfl <| .readBytes <| .done ⟨?status, ?cfg, iv, hiv, ?text⟩
  case key => simp [Effect.after]
  case iv => simpa [Effect.after] using hiv
  case cap => simp [Effect.after]; omega
  case packIv => simpa [Effect.after] using hiv
  case packCap => simp [Effect.after]; omega
  case b64Cap => simpa [Effect.after, hiv] using hroom
  case status => rfl
  case cfg => simp
  case text => simp [Effect.after, text]

/-- Decryption of the text of a message ends with OK and the message in DOUT. -/
theorem Lawful.decryption_ends (hc : c.Lawful) (hpw : pw.length ≤ s.cfg.bufCap) {iv : List Byte}
    (hiv : iv.length = c.size) (htext : (c.text pw iv m).length ≤ s.cfg.bufCap) :
    Ends (c.decryption pw (c.text pw iv m)) s fun t => t.status = 0 ∧ t.mem.dout = m := by
  refine .loadDin hpw <| .command (hc.exec_derive _) rfl <| .loadDin htext <|
    .command (exec_b64D (b64Dec_b64Enc _)) rfl <| .command (exec_movb _) rfl <|
    .command (hc.exec_unpack _ ?size) rfl <| .command (exec_movb _) rfl <|
    .command (hc.exec_decrypt _ m ?key ?iv ?din) rfl <| .readBytes <| .done ⟨rfl, ?dout⟩
  case size => simp [Effect.after, hiv]
  case key => simp [Effect.after]
  case iv => simp [Effect.after, hiv]
  case din => simp [Effect.after, ← hiv]
  case dout => simp [Effect.after]

/-- Encryption and then decryption of the text left in DOUT. -/
theorem Lawful.roundTrip (hc : c.Lawful) (hpw : pw.length ≤ s.cfg.bufCap)
    (hfits : ∀ key iv, key.length = c.size → iv.length = c.size →
      4 * ((c.size + (c.encipher key iv m).length + 2) / 3) ≤ s.cfg.bufCap) (hm : m.length ≤ s.cfg.bufCap) :
    ∃ t t', runMacro (c.encryption pw m) s = .next t ∧ t.status = 0 ∧
      runMacro (c.decryption pw t.mem.dout) t = .next t' ∧ t'.status = 0 ∧ t'.mem.dout = m := by
  obtain ⟨t, ht, hstatus, hcfg, iv, hiv, hdout⟩ := hc.encryption_ends hpw hm hfits
  have htext : (c.text pw iv m).length ≤ t.cfg.bufCap := by
    rw [hcfg, text, b64Enc_length, List.length_append, hiv]
    exact hfits _ iv (deriveKey_length pw c.size) hiv
  obtain ⟨t', ht', hstatus', hdout'⟩ := hc.decryption_ends (hcfg ▸ hpw) hiv htext
  exact ⟨t, t', ht, hstatus, hdout ▸ ht', hstatus', hdout'⟩

/-- Cipher A in the macros: counter mode both ways. -/
def cipherA : Suite where
  size := 16
  derive := .deriveKeyA
  genIv := .genIvA
  encrypt := .aCtr 0
  decrypt := .aCtr 0
  pack := .envPackA
  unpack := .envUnpackA
  encipher key iv m := ctrA (keyexpA key) iv m

/-- Cipher B in the macros: chained mode. -/
def cipherB : Suite where
  size := 8
  derive := .deriveKeyB
  genIv := .genIvB
  encrypt := .bCbcE
  decrypt := .bCbcD
  pack := .envPackB
  unpack := .envUnpackB
  encipher key iv m := cbcEncB (keyschedB key) iv m

end Suite

/-! The commands of either cipher, where they succeed (42_cipher_a_spn.md R177, 43_cipher_b_feistel.md R215, R216,
46_envelope.md R312 to R315). -/

theorem envPack_next {n : Nat} (hiv : s.mem.iv.length = n) (hcap : n + s.mem.din.length ≤ s.cfg.bufCap) :
    envPack n s = .next ((Effect.bytes .dout (s.mem.iv ++ s.mem.din)).after s) := by
  rw [envPack, if_neg (not_not.2 hiv), if_neg (Nat.not_lt.2 hcap)]
  rfl

theorem envUnpack_next {n : Nat} (hn : n ≤ s.mem.din.length) :
    envUnpack n s = .next ((Effect.unpacked (s.mem.din.take n) (s.mem.din.drop n)).after s) :=
  if_neg (Nat.not_lt.2 hn)

theorem exec_aCtr (dir : BitVec 1) (hkey : s.mem.key.length = 16) (hiv : s.mem.iv.length = 16) :
    exec (.aCtr dir) s = .next ((Effect.bytes .dout (ctrA (keyexpA s.mem.key) s.mem.iv s.mem.din)).after s) :=
  (if_neg (not_not.2 hkey)).trans (if_neg (not_not.2 hiv))

theorem exec_bCbcE (hkey : s.mem.key.length = 8) (hiv : s.mem.iv.length = 8)
    (hcap : (cbcEncB (keyschedB s.mem.key) s.mem.iv s.mem.din).length ≤ s.cfg.bufCap) :
    exec .bCbcE s = .next ((Effect.bytes .dout (cbcEncB (keyschedB s.mem.key) s.mem.iv s.mem.din)).after s) := by
  rw [cbcEncB_length] at hcap
  exact (if_neg (not_not.2 hkey)).trans ((if_neg (not_not.2 hiv)).trans (if_neg (Nat.not_lt.2 hcap)))

/-- B_CBC.D gives back a message that B_CBC.E enciphered under the same KEY and IV. -/
theorem exec_bCbcD {m : List Byte} (hkey : s.mem.key.length = 8) (hiv : s.mem.iv.length = 8)
    (hdin : s.mem.din = cbcEncB (keyschedB s.mem.key) s.mem.iv m) :
    exec .bCbcD s = .next ((Effect.bytes .dout m).after s) := by
  have hlen : s.mem.din.length % 8 = 0 := by rw [hdin, cbcEncB_length]; omega
  have hplain : cbcDecB (keyschedB s.mem.key) s.mem.iv s.mem.din = some m := by
    rw [hdin]; exact cbcDecB_cbcEncB _ hiv m
  show execBCbcD s = _
  rw [execBCbcD, if_neg (not_not.2 hkey), if_neg (not_not.2 hiv), if_neg (not_not.2 hlen), hplain]
  rfl

/-- Counter mode under an expanded key is its own inverse (42_cipher_a_spn.md R178 (a)). -/
theorem ctrA_ctrA {key : List Byte} (hkey : key.length = 16) (iv m : List Byte) :
    ctrA (keyexpA key) iv (ctrA (keyexpA key) iv m) = m := by
  have hchunks : m.length ≤ 16 * ((m.length + 15) / 16) := by omega
  rw [ctrA, ctrA, ctrLoop_length (keyexpA_length hkey) hchunks, ctrLoop_ctrLoop (keyexpA_length hkey) hchunks]

/-- Counter mode under an expanded key keeps the length (42_cipher_a_spn.md R172). -/
theorem ctrA_length {key : List Byte} (hkey : key.length = 16) (iv m : List Byte) :
    (ctrA (keyexpA key) iv m).length = m.length :=
  ctrLoop_length (keyexpA_length hkey) (by omega) iv

/-- Cipher A's commands do their parts, counter mode being its own inverse. -/
theorem Suite.cipherA_lawful : Suite.cipherA.Lawful where
  exec_derive _ := rfl
  exec_genIv _ := ⟨_, _, ivMix16_length _ _ _, rfl⟩
  exec_encrypt _ hkey hiv _ := exec_aCtr 0 hkey hiv
  exec_decrypt s m hkey hiv hdin := by
    have hplain : ctrA (keyexpA s.mem.key) s.mem.iv s.mem.din = m := hdin ▸ ctrA_ctrA hkey s.mem.iv m
    exact hplain ▸ exec_aCtr 0 hkey hiv
  exec_pack _ hiv hcap := envPack_next hiv hcap
  exec_unpack _ hn := envUnpack_next hn

/-- Cipher B's commands do their parts, chained decryption undoing chained encryption. -/
theorem Suite.cipherB_lawful : Suite.cipherB.Lawful where
  exec_derive _ := rfl
  exec_genIv _ := ⟨_, _, ivMix8_length _ _ _, rfl⟩
  exec_encrypt _ hkey hiv hcap := exec_bCbcE hkey hiv hcap
  exec_decrypt _ _ hkey hiv hdin := exec_bCbcD hkey hiv hdin
  exec_pack _ hiv hcap := envPack_next hiv hcap
  exec_unpack _ hn := envUnpack_next hn

/-- Settles O46: R98's macros are the two suites' macros, and both suites are lawful. -/
theorem macrosReturnTheMessage : Obligations.MacrosReturnTheMessage := by
  refine fun s pw m hpw => ⟨fun hfits => ?_, fun hfits => ?_⟩
  · refine Suite.cipherA_lawful.roundTrip hpw (fun key iv hkey _ => ?_) (by omega)
    simpa only [Suite.cipherA, ctrA_length hkey] using hfits
  · refine Suite.cipherB_lawful.roundTrip hpw (fun key iv _ _ => ?_) (by omega)
    simp only [Suite.cipherB, cbcEncB_length]
    omega

end Sys2Proof.Machine
end

section
/-! PROOFS. The multiplication of bytes (spec/40_utilities.md R122, R123). It is linear in both operands and commutes
with doubling, and 1 generates every byte by doubling and XOR; so each law holds once it holds for 1. -/

namespace Sys2Proof.Machine

-- Elaborating many proofs at once exhausts the memory limit of the check, as in the model's own tests.
set_option Elab.async false

/-! A byte under a bit: what an iteration adds (40_utilities.md R122). It is linear in the bit and in the byte. -/

/-- x when the bit is set, else 0. -/
def gated (c : Bool) (x : Byte) : Byte := if c then x else 0

theorem xor_gated (c : Bool) (p x : Byte) : p ^^^ gated c x = if c then p ^^^ x else p := by
  cases c with
  | false => exact BitVec.xor_zero
  | true => rfl

theorem gated_bit_xor (c c' : Bool) (x : Byte) : gated (c ^^ c') x = gated c x ^^^ gated c' x := by
  cases c with
  | false => rw [Bool.false_xor]; exact BitVec.zero_xor.symm
  | true =>
    cases c' with
    | false => exact BitVec.xor_zero.symm
    | true => exact BitVec.xor_self.symm

theorem gated_byte_xor (c : Bool) (x y : Byte) : gated c (x ^^^ y) = gated c x ^^^ gated c y := by
  cases c with
  | false => exact BitVec.xor_self.symm
  | true => rfl

/-! Doubling: the multiplication by x modulo the field polynomial. -/

/-- What one iteration makes of a: shifted, and reduced when the shift drops a bit. -/
def gdouble (a : Byte) : Byte := (a <<< 1) ^^^ gated (a.getLsbD 7) 0x1B

theorem gdouble_xor (a b : Byte) : gdouble (a ^^^ b) = gdouble a ^^^ gdouble b := by
  simp only [gdouble, BitVec.shiftLeft_xor_distrib, BitVec.getLsbD_xor, gated_bit_xor]
  ac_rfl

theorem gdouble_zero : gdouble 0 = 0 := by decide

theorem gdouble_gated (c : Bool) (x : Byte) : gdouble (gated c x) = gated c (gdouble x) := by
  cases c with
  | false => exact gdouble_zero
  | true => rfl

/-- The shift drops a bit from 0x80 on. -/
theorem gdouble_eq (a : Byte) : gdouble a = if a.toNat < 0x80 then a <<< 1 else (a <<< 1) ^^^ 0x1B := by
  have hbit : a.getLsbD 7 = decide (0x80 ≤ a.toNat) :=
    (BitVec.msb_eq_getLsbD_last a).symm.trans (BitVec.msb_eq_decide a)
  simp only [gdouble, xor_gated, hbit, decide_eq_true_eq, ← Nat.not_lt, ite_not]

/-! The iterations. -/

theorem gmulLoop_succ (k : Nat) (a b p : Byte) :
    gmulLoop (k + 1) a b p = gmulLoop k (gdouble a) (b >>> 1) (p ^^^ gated (b.getLsbD 0) a) := by
  rw [gdouble, xor_gated, xor_gated, gmulLoop]

/-- The iterations only double and XOR: what both keep of 0, a and p holds of the result. -/
theorem gmulLoop_induction {P : Byte → Prop} (zero : P 0) (double : ∀ a, P a → P (gdouble a))
    (xor : ∀ a b, P a → P b → P (a ^^^ b)) {k : Nat} {a b p : Byte} (ha : P a) (hp : P p) :
    P (gmulLoop k a b p) := by
  induction k generalizing a b p with
  | zero => exact hp
  | succ k ih =>
    have hgated : P (gated (b.getLsbD 0) a) := by
      cases b.getLsbD 0 with
      | false => exact zero
      | true => exact ha
    rw [gmulLoop_succ]
    exact ih (double a ha) (xor _ _ hp hgated)

theorem gmulLoop_xor_left (k : Nat) (a a' b p p' : Byte) :
    gmulLoop k (a ^^^ a') b (p ^^^ p') = gmulLoop k a b p ^^^ gmulLoop k a' b p' := by
  induction k generalizing a a' b p p' with
  | zero => rfl
  | succ k ih =>
    simp only [gmulLoop_succ, ← ih, gdouble_xor, gated_byte_xor]
    ac_rfl

theorem gmulLoop_xor_right (k : Nat) (a b b' p p' : Byte) :
    gmulLoop k a (b ^^^ b') (p ^^^ p') = gmulLoop k a b p ^^^ gmulLoop k a b' p' := by
  induction k generalizing a b b' p p' with
  | zero => rfl
  | succ k ih =>
    simp only [gmulLoop_succ, ← ih, BitVec.ushiftRight_xor_distrib, BitVec.getLsbD_xor, gated_bit_xor]
    ac_rfl

theorem gmulLoop_gdouble (k : Nat) (a b p : Byte) :
    gmulLoop k (gdouble a) b (gdouble p) = gdouble (gmulLoop k a b p) := by
  induction k generalizing a b p with
  | zero => rfl
  | succ k ih => simp only [gmulLoop_succ, ← ih, gdouble_xor, gdouble_gated]

/-! The multiplication: linear in both operands, and 1 on the left neutral. -/

theorem gmul_xor_left (a a' b : Byte) : gmul (a ^^^ a') b = gmul a b ^^^ gmul a' b := gmulLoop_xor_left 8 a a' b 0 0

theorem gmul_xor_right (a b b' : Byte) : gmul a (b ^^^ b') = gmul a b ^^^ gmul a b' := gmulLoop_xor_right 8 a b b' 0 0

theorem gmul_gdouble_left (a b : Byte) : gmul (gdouble a) b = gdouble (gmul a b) := gmulLoop_gdouble 8 a b 0

/-- The eight iterations put the eight bits of b together. -/
theorem one_gmul : ∀ b : Byte, gmul 1 b = b := by decide +kernel

/-- Every byte comes from 1 by doubling and XOR. -/
theorem byte_induction {P : Byte → Prop} (one : P 1) (double : ∀ a, P a → P (gdouble a))
    (xor : ∀ a b, P a → P b → P (a ^^^ b)) (b : Byte) : P b := by
  have hzero : P 0 := xor 1 1 one one
  exact one_gmul b ▸ gmulLoop_induction hzero double xor one hzero

theorem gmul_zero (a : Byte) : gmul a 0 = 0 := by
  calc gmul a 0
    _ = gmul a 0 ^^^ gmul a 0 := gmul_xor_right a 0 0
    _ = 0 := BitVec.xor_self

theorem gmul_one (a : Byte) : gmul a 1 = a := by
  induction a using byte_induction with
  | one => exact one_gmul 1
  | double a ih => rw [gmul_gdouble_left, ih]
  | xor a a' ih ih' => rw [gmul_xor_left, ih, ih']

theorem gmul_gdouble_right (a b : Byte) : gmul a (gdouble b) = gdouble (gmul a b) := by
  induction a using byte_induction with
  | one => rw [one_gmul, one_gmul]
  | double a ih => rw [gmul_gdouble_left, ih, gmul_gdouble_left]
  | xor a a' ih ih' => rw [gmul_xor_left, ih, ih', gmul_xor_left, gdouble_xor]

theorem gmul_comm (a b : Byte) : gmul a b = gmul b a := by
  induction a using byte_induction with
  | one => rw [one_gmul, gmul_one]
  | double a ih => rw [gmul_gdouble_left, ih, gmul_gdouble_right]
  | xor a a' ih ih' => rw [gmul_xor_left, ih, ih', gmul_xor_right]

theorem gmul_assoc (a b c : Byte) : gmul (gmul a b) c = gmul a (gmul b c) := by
  induction a using byte_induction with
  | one => rw [one_gmul, one_gmul]
  | double a ih => rw [gmul_gdouble_left, gmul_gdouble_left, ih, gmul_gdouble_left]
  | xor a a' ih ih' => rw [gmul_xor_left, gmul_xor_left, ih, ih', gmul_xor_left]

/-- 2 is 1 doubled. -/
theorem two_gmul (a : Byte) : gmul 2 a = gdouble a := by
  calc gmul 2 a
    _ = gdouble (gmul 1 a) := gmul_gdouble_left 1 a
    _ = gdouble a := by rw [one_gmul]

theorem three_gmul (a : Byte) : gmul 3 a = gmul 2 a ^^^ a := by
  calc gmul 3 a
    _ = gmul 2 a ^^^ gmul 1 a := gmul_xor_left 2 1 a
    _ = gmul 2 a ^^^ a := by rw [one_gmul]

/-! The inverse. -/

/-- The inverse read off SBOX_A (42_cipher_a_spn.md R161), which is the inverse followed by an affine map over XOR: this
undoes the affine map. -/
def ginv (a : Byte) : Byte :=
  (sboxA a).rotateLeft 1 ^^^ (sboxA a).rotateLeft 3 ^^^ (sboxA a).rotateLeft 6 ^^^ 0x05

theorem gmul_ginv : ∀ {a : Byte}, a ≠ 0 → gmul a (ginv a) = 1 := by decide +kernel

/-- Two inverses d and d' of a are equal: d = d (a d') = (a d) d' = d'. -/
theorem existsUnique_gmul_eq_one {a : Byte} (ha : a ≠ 0) : ∃! d, gmul a d = 1 := by
  refine ⟨ginv a, gmul_ginv ha, fun d hd => ?_⟩
  calc d
    _ = gmul d (gmul a (ginv a)) := by rw [gmul_ginv ha, gmul_one]
    _ = gmul (gmul a d) (ginv a) := by rw [← gmul_assoc, gmul_comm d a]
    _ = ginv a := by rw [hd, one_gmul]

/-- Settles O2, from the laws above, doubling being the multiplication by 2. -/
theorem gmulIsFieldMultiplication : Obligations.GmulIsFieldMultiplication := fun a b c =>
  ⟨gmul_comm a b, gmul_assoc a b c, gmul_one a, gmul_zero a, gmul_xor_right a b c, (two_gmul a).trans (gdouble_eq a),
    three_gmul a, existsUnique_gmul_eq_one⟩

/-! GFMUL (40_utilities.md R123). -/

theorem zeroExtend_byte_upper (x : Byte) : (x.zeroExtend 64).extractLsb' 32 32 = 0 := by
  ext i hi
  have hhigh : x.getLsbD (32 + i) = false := BitVec.getLsbD_of_ge x _ (by omega)
  simp [hhigh]

theorem zeroExtend_byte_lower (x : Byte) : (x.zeroExtend 64).extractLsb' 0 32 = x.zeroExtend 32 := by
  ext i hi
  have hin : i < 64 := by omega
  simp [hin]

/-- Settles O1: GFMUL always succeeds, and its result fits the lower half of RV. -/
theorem gfmulMultipliesLowBytes : Obligations.GfmulMultipliesLowBytes := by
  refine ⟨by decide, fun s => succeed_next.2 ?_⟩
  simp only [State.setRv, zeroExtend_byte_upper, zeroExtend_byte_lower]
  rfl

end Sys2Proof.Machine
end

section
/-! PROOFS. BITPERM (spec/40_utilities.md R124, R126): each output bit, and the two failures. -/

namespace Sys2Proof.Machine

-- Elaborating many proofs at once exhausts the memory limit of the check, as in the model's own tests.
set_option Elab.async false

/-- A permuted value has one bit for each entry of the table. -/
theorem permute_lt (v nIn : Nat) (t : List Nat) : permute v nIn t < 2 ^ t.length := by
  induction t using List.reverseRecOn with
  | nil => exact Nat.one_pos
  | append_singleton t p ih =>
    rw [permute_append_singleton, List.length_append, List.length_singleton, Nat.pow_succ]
    omega

variable {s : State}

/-- BITPERM's table test fails exactly when some byte of PTAB is 0 or above the width. -/
theorem tableOutOfRange_permTable_iff (n : Nat) :
    tableOutOfRange n s.permTable = true ↔ ∃ e ∈ s.mem.ptab, e.toNat < 1 ∨ n < e.toNat := by
  simp [tableOutOfRange, State.permTable]

theorem permTable_length : s.permTable.length = s.mem.ptab.length := List.length_map _

theorem permTable_getD {i : Nat} : s.permTable.getD i 0 = (s.mem.ptab.getD i 0).toNat :=
  List.getD_map s.mem.ptab 0 BitVec.toNat

/-- What BITPERM puts into RV when it succeeds. -/
def bitpermResult (s : State) : DWord :=
  BitVec.ofNat 64 (permute (s.pv.toNat % 2 ^ s.p0.toNat) s.p0.toNat s.permTable)

theorem exec_bitperm_next (hpos : 1 ≤ s.p0.toNat) (hle : s.p0.toNat ≤ 64)
    (htab : ∀ e ∈ s.mem.ptab, 1 ≤ e.toNat ∧ e.toNat ≤ s.p0.toNat) :
    exec .bitperm s = .next ((s.setRv (bitpermResult s)).setStatus .ok) := by
  have hrange : ¬tableOutOfRange s.p0.toNat s.permTable = true := by
    rw [tableOutOfRange_permTable_iff]
    rintro ⟨e, he, hout⟩
    have := htab e he
    omega
  exact (if_neg (by omega)).trans (if_neg hrange)

theorem exec_bitperm_failed
    (h : s.p0.toNat < 1 ∨ 64 < s.p0.toNat ∨ ∃ e ∈ s.mem.ptab, e.toNat < 1 ∨ s.p0.toNat < e.toNat) :
    exec .bitperm s = .next (failedState .rv 8 s) := by
  have hraise : raise .rv .contract s = .next (failedState .rv 8 s) := (raise_next .rv .contract).2 rfl
  show execBitperm s = _
  rw [execBitperm, hraise]
  by_cases hwidth : s.p0.toNat < 1 ∨ 64 < s.p0.toNat
  · exact if_pos hwidth
  · rw [← or_assoc, or_iff_right hwidth, ← tableOutOfRange_permTable_iff] at h
    exact (if_neg hwidth).trans (if_pos h)

/-- Output position i takes the input position that entry i names, both counted from the most significant end. -/
theorem bitpermResult_getLsbD {i : Nat} (hcap : s.mem.ptab.length ≤ 64)
    (htab : ∀ e ∈ s.mem.ptab, 1 ≤ e.toNat ∧ e.toNat ≤ s.p0.toNat) (hi : i < s.mem.ptab.length) :
    (bitpermResult s).getLsbD (s.mem.ptab.length - 1 - i) =
      s.pv.getLsbD (s.p0.toNat - (s.mem.ptab.getD i 0).toNat) := by
  have hout : s.mem.ptab.length - 1 - i < s.permTable.length := by rw [permTable_length]; omega
  have hback : s.mem.ptab.length - 1 - (s.mem.ptab.length - 1 - i) = i := by omega
  have hentry : s.p0.toNat - (s.mem.ptab.getD i 0).toNat < s.p0.toNat := by
    rw [List.getD_eq_getElem _ _ hi]
    have := htab _ (List.getElem_mem hi)
    omega
  rw [bitpermResult, BitVec.getLsbD_ofNat, decide_eq_true (by omega), Bool.true_and, testBit_permute _ _ hout,
    permTable_length, hback, permTable_getD, Nat.testBit_mod_two_pow, decide_eq_true hentry, Bool.true_and,
    BitVec.testBit_toNat]

/-- The result is right-aligned: above its m bits RV is 0. -/
theorem bitpermResult_getLsbD_of_length_le {j : Nat} (hj : s.mem.ptab.length ≤ j) :
    (bitpermResult s).getLsbD j = false := by
  have hlt : permute (s.pv.toNat % 2 ^ s.p0.toNat) s.p0.toNat s.permTable < 2 ^ j := by
    refine (permute_lt ..).trans_le (Nat.pow_le_pow_right (by decide) ?_)
    rwa [permTable_length]
  rw [bitpermResult, BitVec.getLsbD_ofNat, Nat.testBit_lt_two_pow hlt, Bool.and_false]

/-- Settles O3: the bits of BITPERM's result when both tests pass, and its failure when one does not. -/
theorem bitpermSelectsInputBits : Obligations.BitpermSelectsInputBits := by
  refine ⟨by decide, fun s => ⟨fun hpos hle hcap htab => ?_, exec_bitperm_failed⟩⟩
  have hrv : ((s.setRv (bitpermResult s)).setStatus .ok).rv = bitpermResult s := s.setRv_rv _
  refine ⟨_, exec_bitperm_next hpos hle htab, rfl, fun i hi => ?_, fun j hj => ?_⟩
  · rw [hrv, bitpermResult_getLsbD hcap htab hi]
  · rw [hrv, bitpermResult_getLsbD_of_length_le hj]

end Sys2Proof.Machine
end

section
/-! PROOFS. Key and IV derivation (spec/41_derivation.md): DERIVE_KEY byte by byte (R141, R142), IVMIX injective for
either choice of the parameter (R147, R148), GEN_IV (R149, R150), and no IV twice at one time (R151). -/

namespace Sys2Proof.Machine

-- Elaborating many proofs at once exhausts the memory limit of the check, as in the model's own tests.
set_option Elab.async false

/-! DERIVE_KEY (41_derivation.md R140 to R142) -/

/-- Byte i of `derive(pw, n)` (41_derivation.md R140). -/
theorem deriveKey_getElem? (pw : List Byte) {n i : Nat} (hi : i < n) :
    (deriveKey pw n)[i]? = if pw = [] then some 0 else pw[i % pw.length]? := by
  by_cases hpw : pw = []
  · simp [deriveKey, hpw, hi]
  · have hmod : i % pw.length < pw.length := Nat.mod_lt i (List.length_pos_iff.2 hpw)
    simp [deriveKey, hpw, hi, hmod]

/-- Settles O4: the key of either size is `derive` of DIN. -/
theorem deriveKeyRepeatsPassphrase : Obligations.DeriveKeyRepeatsPassphrase :=
  ⟨by decide, by decide, fun s =>
    ⟨⟨deriveKey s.mem.din 16, rfl, deriveKey_length _ _, fun _ => deriveKey_getElem? _⟩,
      ⟨deriveKey s.mem.din 8, rfl, deriveKey_length _ _, fun _ => deriveKey_getElem? _⟩⟩⟩

/-! IVMIX (41_derivation.md R147, R148) -/

/-- XOR with a function of itself is injective when each bit of that function depends only on bits that come earlier
in some ranking of the positions: the bits of the argument are recovered in the order of their rank. -/
theorem xor_self_injective {w : Nat} {f : BitVec w → BitVec w} (rank : Nat → Nat)
    (hf : ∀ x y i, (∀ j, rank j < rank i → x.getLsbD j = y.getLsbD j) → (f x).getLsbD i = (f y).getLsbD i) :
    Function.Injective fun x => x ^^^ f x := by
  intro x y hxy
  have hbit : ∀ r i, rank i = r → x.getLsbD i = y.getLsbD i := by
    intro r
    induction r using Nat.strong_induction_on with
    | h r ih =>
      rintro i rfl
      have hearlier : (f x).getLsbD i = (f y).getLsbD i := hf x y i fun j hj => ih (rank j) hj j rfl
      have hxor : (x ^^^ f x).getLsbD i = (y ^^^ f y).getLsbD i := congrArg (·.getLsbD i) hxy
      simpa only [BitVec.getLsbD_xor, hearlier, Bool.xor_left_inj] using hxor
  exact BitVec.eq_of_getLsbD_eq fun i _ => hbit (rank i) i rfl

/-- A left shift moves in earlier bits, counted from the least significant one. -/
theorem xor_shiftLeft_injective {w k : Nat} (hk : 0 < k) : Function.Injective fun x : BitVec w => x ^^^ x <<< k := by
  refine xor_self_injective id fun x y i h => ?_
  by_cases hi : i < k
  · simp [BitVec.getLsbD_shiftLeft, hi]
  · simp only [BitVec.getLsbD_shiftLeft, h (i - k) (show i - k < i by omega)]

/-- A right shift moves in earlier bits, counted from the most significant one. -/
theorem xor_ushiftRight_injective {w k : Nat} (hk : 0 < k) : Function.Injective fun x : BitVec w => x ^^^ x >>> k := by
  refine xor_self_injective (w - ·) fun x y i h => ?_
  simp only [BitVec.getLsbD_ushiftRight]
  by_cases hi : i < w
  · exact h (k + i) (show w - (k + i) < w - i by omega)
  · rw [BitVec.getLsbD_of_ge x _ (by omega), BitVec.getLsbD_of_ge y _ (by omega)]

/-- The xorshift step loses nothing (41_derivation.md R148). -/
theorem xs64_injective : Function.Injective xs64 :=
  (xor_shiftLeft_injective (by decide : 0 < 17)).comp
    ((xor_ushiftRight_injective (by decide : 0 < 7)).comp (xor_shiftLeft_injective (by decide : 0 < 13)))

/-- n bytes hold a word of at most 8·n bits (40_utilities.md R120). -/
theorem unbe_toNat_injective {w n : Nat} (h : w ≤ 8 * n) : Function.Injective fun v : BitVec w => unbe n v.toNat := by
  have hread (v : BitVec w) : be (unbe n v.toNat) = v.toNat := by
    rw [be_unbe]
    refine Nat.mod_eq_of_lt (v.isLt.trans_le ?_)
    calc 2 ^ w
      _ ≤ 2 ^ (8 * n) := Nat.pow_le_pow_right (by decide) h
      _ = 256 ^ n := Nat.pow_mul 2 8 n
  intro v v' hv
  exact BitVec.eq_of_toNat_eq ((hread v).symm.trans ((congrArg be hv).trans (hread v')))

/-- IVMIX_REF is injective in the counter for n = 8 (41_derivation.md R148). -/
theorem ivMixRef8_injective (t : DWord) : Function.Injective (ivMixRef8 t) :=
  ((unbe_toNat_injective (by decide)).comp xs64_injective).comp fun _ _ => (BitVec.xor_right_inj t).1

/-- For n = 16 the first eight bytes of IVMIX_REF are those for n = 8. -/
theorem ivMixRef16_injective (t : DWord) : Function.Injective (ivMixRef16 t) := fun _ _ h =>
  ivMixRef8_injective t (List.append_inj_left h ((unbe_length _ _).trans (unbe_length _ _).symm))

/-- IVMIX_INJ for n = 8 (41_derivation.md R147). -/
theorem ivMix8_injective (m : IvMix) (t : DWord) : Function.Injective (ivMix8 m t) := by
  cases m with
  | reference => exact ivMixRef8_injective t
  | arbitrary => exact (unbe_toNat_injective (by decide)).comp (Config.anyIvMix8 t).injective

/-- IVMIX_INJ for n = 16 (41_derivation.md R147). -/
theorem ivMix16_injective (m : IvMix) (t : DWord) : Function.Injective (ivMix16 m t) := by
  cases m with
  | reference => exact ivMixRef16_injective t
  | arbitrary =>
    have hextend : Function.Injective fun c : DWord => c.zeroExtend 128 := by
      intro c c' h
      have hback (v : DWord) : (v.zeroExtend 128).setWidth 64 = v := by simp
      exact (hback c).symm.trans ((congrArg (·.setWidth 64) h).trans (hback c'))
    exact ((unbe_toNat_injective (by decide)).comp (Config.anyIvMix16 t).injective).comp hextend

/-- Settles O6: lengths and injectivity of either size, by the choice of the parameter. -/
theorem ivMixHasLengthAndInjectivity : Obligations.IvMixHasLengthAndInjectivity := fun m t =>
  ⟨fun c => ⟨ivMix8_length m t c, ivMix16_length m t c⟩, ivMix8_injective m t, ivMix16_injective m t⟩

/-! GEN_IV (41_derivation.md R149, R150) -/

/-- The effect of a GEN_IV that derives its IV by `mix`: IVMIX of the time and the counter, and the counter advanced. -/
def genIvEffect (mix : IvMix → DWord → DWord → List Byte) (s : State) : Effect :=
  .freshIv (mix s.cfg.ivmix s.sampleTime s.ivctr) (s.ivctr + 1)

@[simp] theorem genIvEffect_after_iv (mix : IvMix → DWord → DWord → List Byte) (s : State) :
    ((genIvEffect mix s).after s).mem.iv = mix s.cfg.ivmix s.sampleTime s.ivctr := rfl

@[simp] theorem genIvEffect_after_ivctr (mix : IvMix → DWord → DWord → List Byte) (s : State) :
    ((genIvEffect mix s).after s).ivctr = s.ivctr + 1 := append_halves _

theorem exec_genIvA (s : State) : exec .genIvA s = .next ((genIvEffect ivMix16 s).after s) := rfl

theorem exec_genIvB (s : State) : exec .genIvB s = .next ((genIvEffect ivMix8 s).after s) := rfl

/-- Settles O5: GEN_IV of either size takes one sample and has the effect above. -/
theorem genIvUsesCounterThenAdvances : Obligations.GenIvUsesCounterThenAdvances :=
  ⟨by decide, by decide, fun s => ⟨⟨s.timeDraws + 1, exec_genIvA s⟩, ⟨s.timeDraws + 1, exec_genIvB s⟩⟩⟩

/-! No IV twice at one time (41_derivation.md R151) -/

variable {s t s' t' : State}

/-- A sequence that ends in a next state performs its first transaction, then the others. -/
theorem performAll_cons_next {x : Transaction} {xs : List Transaction} (h : performAll (x :: xs) s = .next t) :
    ∃ u, perform x s = .next u ∧ performAll xs u = .next t := by
  unfold performAll at h
  split at h
  · exact ⟨_, ‹_›, h⟩
  · cases h
  · cases h

/-- No transaction changes the configuration, not even Reset (10_state.md R40). -/
theorem perform_cfg {x : Transaction} (h : perform x s = .next t) : t.cfg = s.cfg := by
  cases x with
  | writeReg n v =>
    by_cases hn : n = 0
    · subst hn
      cases hv : decode v with
      | ok i =>
        rw [perform_writeCmd hv] at h
        obtain ⟨e, -, rfl⟩ := exec_next h
        exact e.after_cfg
      | error e =>
        obtain rfl := (perform_writeCmd_illegal hv).1 h
        rfl
    · obtain rfl := (perform_writeReg hn v).1 h
      exact s.writeReg_cfg n v
  | loadBytes b v =>
    obtain ⟨-, rfl⟩ := (loadBytes_next b v).1 h
    rfl
  | loadCells b v =>
    obtain ⟨-, rfl⟩ := (loadCells_next b v).1 h
    rfl
  | reset => cases h; rfl
  | readReg n => cases h; rfl
  | readBytes b => cases h; rfl
  | readCells b => cases h; rfl
  | time d => cases h; rfl
  | timeFree => cases h; rfl

/-- No sequence of transactions changes the configuration. -/
theorem performAll_cfg {ts : List Transaction} (h : performAll ts s = .next t) : t.cfg = s.cfg := by
  induction ts generalizing s with
  | nil => cases h; rfl
  | cons x xs ih =>
    obtain ⟨u, hu, hrest⟩ := performAll_cons_next h
    exact (ih hrest).trans (perform_cfg hu)

/-- A counter that has advanced by fewer than 2^64 steps, and at least one, is not where it was. -/
theorem add_one_add_ofNat_ne (c : DWord) {n : Nat} (hn : n < 2 ^ 64 - 1) : c + 1 + BitVec.ofNat 64 n ≠ c := by
  bv_omega

/-- R151 (b) for a GEN_IV of either size: between the two the configuration stays and the counter moves on without
coming round, so an injective `mix` gives two different IVs. -/
theorem genIv_iv_ne {i : Instr} {mix : IvMix → DWord → DWord → List Byte}
    (hexec : ∀ s, exec i s = .next ((genIvEffect mix s).after s)) (hinj : ∀ m t, Function.Injective (mix m t))
    {ts : List Transaction} (hreset : noReset ts = true) (hcount : countGenIv ts < 2 ^ 64 - 1)
    (ht : exec i s = .next t) (hs' : performAll ts t = .next s') (htime : s'.sampleTime = s.sampleTime)
    (ht' : exec i s' = .next t') : t.mem.iv ≠ t'.mem.iv := by
  obtain rfl := Host.Outcome.next.inj ((hexec s).symm.trans ht)
  obtain rfl := Host.Outcome.next.inj ((hexec s').symm.trans ht')
  have hcfg : s'.cfg = s.cfg := (performAll_cfg hs').trans (Effect.after_cfg _)
  have hctr : s'.ivctr = s.ivctr + 1 + BitVec.ofNat 64 (countGenIv ts) := by
    rw [ivctrCountsGenIvCommands ts _ s' hreset hs', genIvEffect_after_ivctr]
  intro hiv
  rw [genIvEffect_after_iv, genIvEffect_after_iv, hcfg, htime] at hiv
  exact add_one_add_ofNat_ne s.ivctr hcount (hctr.symm.trans (hinj _ _ hiv).symm)

/-- Settles O8: both sizes by the injectivity of their IVMIX. -/
theorem genIvNeverRepeatsWithinMillisecond : Obligations.GenIvNeverRepeatsWithinMillisecond :=
  fun _ _ _ _ _ hreset hcount =>
    ⟨genIv_iv_ne exec_genIvA ivMix16_injective hreset hcount, genIv_iv_ne exec_genIvB ivMix8_injective hreset hcount⟩

end Sys2Proof.Machine
end

section
/-! PROOFS. Cipher A's key expansion, byte by byte (spec/42_cipher_a_spn.md R163). -/

namespace Sys2Proof.Machine

-- Elaborating many proofs at once exhausts the memory limit of the check, as in the model's own tests.
set_option Elab.async false

variable {w key : List Byte} {i j k n : Nat}

/-- Byte i of the XOR of two sequences (40_utilities.md R121). -/
theorem xorb_getD {a b : List Byte} (ha : i < a.length) (hb : i < b.length) :
    (xorb a b).getD i 0 = a.getD i 0 ^^^ b.getD i 0 := by
  simp [xorb, ha, hb]

/-- Byte j of the word at offset i. -/
theorem word_getD (hj : j < 4) : ((w.drop i).take 4).getD j 0 = w.getD (i + j) 0 := by
  simp [List.getD_eq_getElem?_getD, hj]

/-- Byte j of the rotated, substituted and constant-XORed word. -/
theorem keyCore_getD (t : List Byte) (hj : j < 4) :
    (keyCore t k).getD j 0 = sboxA (t.getD ((j + 1) % 4) 0) ^^^ (if j = 0 then rcon k else 0) := by
  match j with
  | 0 => rfl
  | 1 | 2 | 3 => exact (BitVec.xor_zero).symm

/-- Byte j of the transform of the previous word. -/
theorem prevWord_getD (hj : j < 4) :
    (prevWord w i).getD j 0 =
      if i % 16 = 0 then sboxA (w.getD (i - 4 + (j + 1) % 4) 0) ^^^ (if j = 0 then rcon (i / 16) else 0)
      else w.getD (i - 4 + j) 0 := by
  unfold prevWord
  split
  · rw [keyCore_getD _ hj, word_getD (Nat.mod_lt _ (by decide))]
  · rw [word_getD hj]

/-- Byte j of the word made at offset i: the byte 16 back XOR the transform of the previous word. -/
theorem nextWord_getD (hi : 16 ≤ i) (hw : w.length = i) (hj : j < 4) :
    (nextWord w i).getD j 0 = w.getD (i - 16 + j) 0 ^^^
      if i % 16 = 0 then sboxA (w.getD (i - 4 + (j + 1) % 4) 0) ^^^ (if j = 0 then rcon (i / 16) else 0)
      else w.getD (i - 4 + j) 0 := by
  have hlen : (nextWord w i).length = 4 := nextWord_length hi hw
  rw [nextWord, xorb_length] at hlen
  rw [nextWord, xorb_getD (by omega) (by omega), word_getD hj, prevWord_getD hj]

/-- The expansion after n words (42_cipher_a_spn.md R163): `keyexpA` after 40. -/
def expandA (key : List Byte) (n : Nat) : List Byte :=
  (List.range n).foldl (fun w k => w ++ nextWord w (16 + 4 * k)) key

theorem expandA_succ (key : List Byte) (n : Nat) :
    expandA key (n + 1) = expandA key n ++ nextWord (expandA key n) (16 + 4 * n) := by
  simp [expandA, List.range_succ]

theorem keyexpA_eq_expandA (key : List Byte) : keyexpA key = expandA key 40 := rfl

theorem expandA_length (hkey : key.length = 16) (n : Nat) : (expandA key n).length = 16 + 4 * n := by
  induction n with
  | zero => exact hkey
  | succ n ih => rw [expandA_succ, List.length_append, nextWord_length (by omega) ih, ih]; omega

/-- A further word leaves the bytes before it as they are. -/
theorem expandA_prefix (key : List Byte) (h : n ≤ k) : expandA key n <+: expandA key k := by
  induction k, h using Nat.le_induction with
  | base => exact List.prefix_rfl
  | succ k _ ih => exact ih.trans (expandA_succ key k ▸ List.prefix_append _ _)

/-- A byte of the expanded key is there as soon as its word is made. -/
theorem keyexpA_getD (hkey : key.length = 16) (hn : n ≤ 40) (hi : i < 16 + 4 * n) :
    (keyexpA key).getD i 0 = (expandA key n).getD i 0 := by
  obtain ⟨rest, hrest⟩ := expandA_prefix key hn
  rw [keyexpA_eq_expandA, ← hrest, List.getD_append _ _ _ _ (expandA_length hkey n ▸ hi)]

/-- Byte j of computed word n, by the bytes 16 back and of the previous word. -/
theorem keyexpA_word_getD (hkey : key.length = 16) (hn : n < 40) (hj : j < 4) :
    (keyexpA key).getD (16 + 4 * n + j) 0 = (keyexpA key).getD (4 * n + j) 0 ^^^
      if (16 + 4 * n) % 16 = 0 then
        sboxA ((keyexpA key).getD (12 + 4 * n + (j + 1) % 4) 0) ^^^ (if j = 0 then rcon ((16 + 4 * n) / 16) else 0)
      else (keyexpA key).getD (12 + 4 * n + j) 0 := by
  have hlen := expandA_length hkey n
  have hback : 16 + 4 * n - 16 = 4 * n := by omega
  have hprev : 16 + 4 * n - 4 = 12 + 4 * n := by omega
  have hmade {m : Nat} (hm : m < 16 + 4 * n) : (expandA key n).getD m 0 = (keyexpA key).getD m 0 :=
    (keyexpA_getD hkey hn.le hm).symm
  rw [keyexpA_getD hkey (n := n + 1) hn (by omega), expandA_succ, List.getD_append_right _ _ _ _ (by omega), hlen,
    Nat.add_sub_cancel_left, nextWord_getD (by omega) hlen hj, hback, hprev, hmade (by omega), hmade (by omega),
    hmade (by omega)]

/-- Settles O9: the key is a prefix of every expansion, and byte i is byte i mod 4 of computed word (i - 16) / 4. -/
theorem keyExpansionFollowsRecurrence : Obligations.KeyExpansionFollowsRecurrence := by
  intro key hkey
  refine ⟨keyexpA_length hkey, ?begins, fun i hlow hhigh => ?recurrence, fun _ _ => rfl⟩
  case begins => exact hkey ▸ (List.prefix_iff_eq_take.1 (expandA_prefix key (Nat.zero_le 40))).symm
  case recurrence =>
    obtain ⟨n, j, hn, hj, rfl⟩ : ∃ n j, n < 40 ∧ j < 4 ∧ i = 16 + 4 * n + j := ⟨(i - 16) / 4, i % 4, by omega⟩
    have hword : (16 + 4 * n + j) % 16 < 4 ↔ (16 + 4 * n) % 16 = 0 := by omega
    have hmod : (16 + 4 * n + j) % 4 = j := by omega
    have hdiv : (16 + 4 * n + j) / 16 = (16 + 4 * n) / 16 := by omega
    have hback : 16 + 4 * n + j - 16 = 4 * n + j := by omega
    have hprev : 16 + 4 * n + j - j - 4 = 12 + 4 * n := by omega
    have hprevByte : 16 + 4 * n + j - 4 = 12 + 4 * n + j := by omega
    simp only [hword, hmod, hdiv, hback, hprev, hprevByte]
    exact keyexpA_word_getD hkey hn hj

end Sys2Proof.Machine
end

section
/-! PROOFS. Cipher A's commands (spec/42_cipher_a_spn.md R175 to R177): their results, counter mode byte by byte, and
their failures in the order of the tests. -/

namespace Sys2Proof.Machine

-- Elaborating many proofs at once exhausts the memory limit of the check, as in the model's own tests.
set_option Elab.async false

variable {s : State}

/-! The failures, in the order of the tests (60_exceptions.md R348) -/

/-- A command whose first test fails ends in the failed state (60_exceptions.md R346). -/
theorem guard_failed {p : Prop} [Decidable p] {d : Dest} {c : Code} {a : Answer} (h : p) :
    (if p then raise d c s else a) = .next (failedState d c.word s) :=
  (if_pos h).trans ((raise_next d c).2 rfl)

theorem exec_aKeyexp_keylen (hkey : s.mem.key.length ≠ 16) : exec .aKeyexp s = .next (failedState .dout 1 s) :=
  guard_failed hkey

theorem exec_aBlock_keylen (hkey : s.mem.key.length ≠ 16) : exec .aBlock s = .next (failedState .dout 1 s) :=
  guard_failed hkey

theorem exec_aBlock_contract (hkey : s.mem.key.length = 16) (hdin : s.mem.din.length ≠ 16) :
    exec .aBlock s = .next (failedState .dout 8 s) :=
  (if_neg (not_not.2 hkey)).trans (guard_failed hdin)

theorem exec_aCtr_keylen (dir : BitVec 1) (hkey : s.mem.key.length ≠ 16) :
    exec (.aCtr dir) s = .next (failedState .dout 1 s) := guard_failed hkey

theorem exec_aCtr_ivlen (dir : BitVec 1) (hkey : s.mem.key.length = 16) (hiv : s.mem.iv.length ≠ 16) :
    exec (.aCtr dir) s = .next (failedState .dout 2 s) :=
  (if_neg (not_not.2 hkey)).trans (guard_failed hiv)

/-! The results -/

theorem exec_aKeyexp (hkey : s.mem.key.length = 16) :
    exec .aKeyexp s = .next ((Effect.bytes .dout (keyexpA s.mem.key)).after s) := if_neg (not_not.2 hkey)

theorem exec_aBlock (hkey : s.mem.key.length = 16) (hdin : s.mem.din.length = 16) :
    exec .aBlock s = .next ((Effect.bytes .dout (encblockA (keyexpA s.mem.key) s.mem.din)).after s) :=
  (if_neg (not_not.2 hkey)).trans (if_neg (not_not.2 hdin))

/-- A result in DOUT: DOUT and STATUS change and nothing else does. -/
theorem after_bytes_dout (s : State) (v : List Byte) :
    (Effect.bytes .dout v).after s = { s with mem := { s.mem with dout := v }, status := 0 } := rfl

/-- Settles O10: one rule for each result and each failure. -/
theorem keyexpAndBlockOfCipherA : Obligations.KeyexpAndBlockOfCipherA :=
  ⟨rfl, rfl, fun s => ⟨fun hkey => after_bytes_dout s _ ▸ exec_aKeyexp hkey,
    fun hkey hdin => after_bytes_dout s _ ▸ exec_aBlock hkey hdin,
    fun hkey => ⟨exec_aKeyexp_keylen hkey, exec_aBlock_keylen hkey⟩, exec_aBlock_contract⟩⟩

/-! Counter mode byte by byte (42_cipher_a_spn.md R172 to R174) -/

/-- Sixteen bytes are the counter value they hold, which is below 2^128. -/
theorem unbe_be_mod {c : List Byte} (hc : c.length = 16) : unbe 16 (be c % 2 ^ 128) = c := by
  have hlt : be c < 2 ^ 128 := (hc ▸ be_lt c).trans_eq (by norm_num)
  rw [Nat.mod_eq_of_lt hlt, ← hc, unbe_be]

/-- The incremented counter plus n, wrapping, is the counter plus n + 1 (42_cipher_a_spn.md R173). -/
theorem be_inc128_add_mod (c : List Byte) (n : Nat) : (be (inc128 c) + n) % 2 ^ 128 = (be c + (n + 1)) % 2 ^ 128 := by
  rw [inc128, be_unbe]
  omega

variable {w ctr data : List Byte} {k i : Nat}

/-- Byte i of counter mode is byte i of the data XOR byte i mod 16 of the keystream block of chunk i / 16. -/
theorem ctrLoop_getD (hw : w.length = 176) (hctr : ctr.length = 16) (hk : data.length ≤ 16 * k)
    (hi : i < data.length) :
    (ctrLoop w k ctr data).getD i 0 =
      data.getD i 0 ^^^ (encblockA w (unbe 16 ((be ctr + i / 16) % 2 ^ 128))).getD (i % 16) 0 := by
  induction k generalizing ctr data i with
  | zero => omega
  | succ k ih =>
    have hblock := encblockA_length hw ctr
    have hchunk : (xorb (data.take 16) ((encblockA w ctr).take (min 16 data.length))).length = min 16 data.length := by
      simp only [xorb_length, List.length_take, hblock]; omega
    rw [ctrLoop]
    obtain hfirst | hlater := Nat.lt_or_ge i 16
    · rw [List.getD_append _ _ _ _ (by omega), xorb_getD (by simp; omega) (by simp; omega),
        Nat.div_eq_of_lt hfirst, Nat.add_zero, unbe_be_mod hctr, Nat.mod_eq_of_lt hfirst]
      simp [List.getD_eq_getElem?_getD, hfirst, hi]
    · have hrest : i - 16 < (data.drop 16).length := by rw [List.length_drop]; omega
      have hdiv : (i - 16) / 16 + 1 = i / 16 := by omega
      have hmod : (i - 16) % 16 = i % 16 := by omega
      have hdata : (data.drop 16).getD (i - 16) 0 = data.getD i 0 := by
        simp [List.getD_eq_getElem?_getD, Nat.add_sub_cancel' hlater]
      rw [List.getD_append_right _ _ _ _ (by omega), hchunk, Nat.min_eq_left (by omega),
        ih (inc128_length ctr) (by rw [List.length_drop]; omega) hrest, be_inc128_add_mod, hdiv, hmod, hdata]

/-- Settles O11: the output is counter mode's, whose byte i is read off its loop. -/
theorem counterModeXorsKeystream : Obligations.CounterModeXorsKeystream :=
  ⟨rfl, rfl, fun dir s => ⟨fun hkey hiv => ⟨ctrA (keyexpA s.mem.key) s.mem.iv s.mem.din, exec_aCtr dir hkey hiv,
      ctrA_length hkey _ _, fun _ => ctrLoop_getD (keyexpA_length hkey) hiv (by omega)⟩,
    exec_aCtr_keylen dir, exec_aCtr_ivlen dir⟩⟩

end Sys2Proof.Machine
end

section
/-! PROOFS. Counter mode and chained mode undone by one more command (spec/42_cipher_a_spn.md R178 (a),
spec/43_cipher_b_feistel.md R211 (a)), and the printed answers of the single-block transforms. -/

namespace Sys2Proof.Machine

-- Elaborating many proofs at once exhausts the memory limit of the check, as in the model's own tests.
set_option Elab.async false

variable {s t : State} {i : Instr}

/-- A command that answers a next state is followed by the rest of the commands. -/
theorem runCommands_cons_of_next {is : List Instr} (h : exec i s = .next t) :
    runCommands (i :: is) s = runCommands is t := by
  rw [runCommands, h]

/-- The state in which r stands in DIN and DOUT, as MOVB leaves it after a command with the result r. -/
def movedResult (r : List Byte) (s : State) : State := (Effect.bytes .din r).after ((Effect.bytes .dout r).after s)

/-- Two commands with a MOVB between them, the second giving m back from the result r of the first. -/
theorem runCommands_roundTrip {j : Instr} {r m : List Byte} (hi : exec i s = .next ((Effect.bytes .dout r).after s))
    (hj : exec j (movedResult r s) = .next ((Effect.bytes .dout m).after (movedResult r s))) :
    ∃ t, runCommands [i, .movb, j] s = .next t ∧ t.mem.dout = m ∧ t.status = 0 := by
  refine ⟨(Effect.bytes .dout m).after (movedResult r s), ?_, rfl, rfl⟩
  rw [runCommands_cons_of_next hi, runCommands_cons_of_next (exec_movb _)]
  exact runCommands_cons_of_next hj

/-- A_CTR gives back what A_CTR made under the same KEY and IV. -/
theorem exec_aCtr_undoes (dir : BitVec 1) {m : List Byte} (hkey : s.mem.key.length = 16) (hiv : s.mem.iv.length = 16)
    (hdin : s.mem.din = ctrA (keyexpA s.mem.key) s.mem.iv m) :
    exec (.aCtr dir) s = .next ((Effect.bytes .dout m).after s) := by
  rw [exec_aCtr dir hkey hiv, hdin, ctrA_ctrA hkey]

/-- Settles O18: neither command touches KEY and IV, so the second works under those of the first. -/
theorem cipherModesRoundTrip : Obligations.CipherModesRoundTrip := by
  refine ⟨fun dir dir' s hkey hiv => ?counter, fun s hkey hiv hcap => ?chained⟩
  case counter =>
    exact runCommands_roundTrip (exec_aCtr dir hkey hiv) (exec_aCtr_undoes dir' hkey hiv rfl)
  case chained =>
    have hfits : (cbcEncB (keyschedB s.mem.key) s.mem.iv s.mem.din).length ≤ s.cfg.bufCap := by
      rw [cbcEncB_length]; omega
    exact runCommands_roundTrip (exec_bCbcE hkey hiv hfits) (exec_bCbcD hkey hiv rfl)

/-- Settles O19, by evaluating both transforms in the kernel. -/
theorem singleBlockKnownAnswers : Obligations.SingleBlockKnownAnswers := by
  refine ⟨?_, ?_, ?_, ?_, ?_, ?_, ?_, ?_⟩
  all_goals decide +kernel

end Sys2Proof.Machine
end

section
/-! PROOFS. Cipher B's key schedule and block transform (spec/43_cipher_b_feistel.md): the schedule reads no least
significant bit of a key byte (R193), the two directions are inverse (R205), and the commands (R212 to R214). -/

namespace Sys2Proof.Machine

-- Elaborating many proofs at once exhausts the memory limit of the check, as in the model's own tests.
set_option Elab.async false

/-! The key bits that enter the schedule (43_cipher_b_feistel.md R191, R193) -/

/-- A bit permutation depends only on the input bits that its table names (40_utilities.md R124). -/
theorem permute_congr {v v' nIn : Nat} {t : List Nat} (h : ∀ p ∈ t, v.testBit (nIn - p) = v'.testBit (nIn - p)) :
    permute v nIn t = permute v' nIn t := by
  refine List.foldl_ext _ _ _ fun out p hp => ?_
  have hbit := h p hp
  simp only [Nat.testBit_eq_decide_div_mod_eq, decide_eq_decide] at hbit
  simp only [Nat.shiftRight_eq_div_pow]
  omega

/-- Bit j of byte i, read off the bytes' number (40_utilities.md R120). -/
theorem getLsbD_getD_eq_testBit_be (b : List Byte) {i j : Nat} (hi : i < b.length) (hj : j < 8) :
    (b.getD i 0).getLsbD j = (be b).testBit (8 * (b.length - 1 - i) + j) := by
  have hbyte : b.getD i 0 = BitVec.ofNat 8 (be b >>> (8 * (b.length - 1 - i))) := by
    calc b.getD i 0
      _ = (unbe b.length (be b)).getD i 0 := by rw [unbe_be]
      _ = _ := by rw [List.getD_eq_getElem?_getD, unbe_getElem? _ _ _ hi, Option.getD_some]
  rw [hbyte, BitVec.getLsbD_ofNat, Nat.testBit_shiftRight, decide_eq_true hj, Bool.true_and]

/-- `PC1` names positions of the key, none of them the last of a byte (43_cipher_b_feistel.md R193). -/
theorem tablePC1_positions : ∀ p ∈ tablePC1, p % 8 ≠ 0 ∧ p < 64 := by decide

section
variable {k k' : List Byte}

/-- Keys that agree but for the last bits of their bytes agree in every other bit. -/
theorem testBit_be_eq_of_shifted_eq (hk : k.length = 8) (hk' : k'.length = 8)
    (h : ∀ i, i < 8 → (k.getD i 0) >>> 1 = (k'.getD i 0) >>> 1) {n : Nat} (hn : n < 64) (hlow : n % 8 ≠ 0) :
    (be k).testBit n = (be k').testBit n := by
  obtain ⟨i, j, hi, hj, rfl⟩ : ∃ i j, i < 8 ∧ j < 7 ∧ n = 8 * (8 - 1 - i) + (1 + j) :=
    ⟨7 - n / 8, n % 8 - 1, by omega⟩
  have hbyte := congrArg (·.getLsbD j) (h i hi)
  simp only [BitVec.getLsbD_ushiftRight] at hbyte
  rwa [getLsbD_getD_eq_testBit_be k (by omega) (by omega), getLsbD_getD_eq_testBit_be k' (by omega) (by omega), hk,
    hk'] at hbyte

/-- Keys that agree but for the last bits of their bytes have the same schedule (43_cipher_b_feistel.md R193). -/
theorem keyschedB_eq_of_shifted_eq (hk : k.length = 8) (hk' : k'.length = 8)
    (h : ∀ i, i < 8 → (k.getD i 0) >>> 1 = (k'.getD i 0) >>> 1) : keyschedB k = keyschedB k' := by
  have hbits : keyBits56 k = keyBits56 k' := by
    refine congrArg (BitVec.ofNat 56) (permute_congr fun p hp => ?_)
    obtain ⟨hmod, hlt⟩ := tablePC1_positions p hp
    simp only [BitVec.toNat_ofNat, Nat.testBit_mod_two_pow]
    rw [testBit_be_eq_of_shifted_eq hk hk' h (by omega) (by omega)]
  rw [keyschedB, keyschedB, hbits]

end

/-- Settles O13: the schedule starts from the bits that `PC1` selects. -/
theorem keyLowBitsDoNotEnterSchedule : Obligations.KeyLowBitsDoNotEnterSchedule :=
  ⟨fun p hp => (tablePC1_positions p hp).1, fun _ _ hk hk' h =>
    have heq := keyschedB_eq_of_shifted_eq hk hk' h
    ⟨heq, fun b d => by rw [heq]⟩⟩

/-! The directions of the block transform (43_cipher_b_feistel.md R204, R205) -/

/-- Decrypting is encrypting under the reversed subkeys. -/
theorem blockB_reverse_enc (sk : List (BitVec 48)) (blk : List Byte) :
    blockB sk.reverse blk .enc = blockB sk blk .dec := rfl

/-- Encrypting is decrypting under the reversed subkeys. -/
theorem blockB_reverse_dec (sk : List (BitVec 48)) (blk : List Byte) :
    blockB sk.reverse blk .dec = blockB sk blk .enc := by
  rw [← blockB_reverse_enc, List.reverse_reverse]

/-- Encrypting a block undoes decrypting it (43_cipher_b_feistel.md R205). -/
theorem blockB_enc_dec (sk : List (BitVec 48)) {blk : List Byte} (hblk : blk.length = 8) :
    blockB sk (blockB sk blk .dec) .enc = blk := by
  rw [← blockB_reverse_enc, ← blockB_reverse_dec, blockB_dec_enc _ hblk]

/-- Settles O14: each direction is the other one under the reversed subkeys. -/
theorem blockDirectionsAreInverse : Obligations.BlockDirectionsAreInverse := fun sk _ hb =>
  ⟨blockB_dec_enc sk hb, blockB_enc_dec sk hb⟩

/-! The commands (43_cipher_b_feistel.md R212 to R214) -/

variable {s : State}

theorem exec_bKeysched (hkey : s.mem.key.length = 8) :
    exec .bKeysched s =
      .next ((Effect.bytes .dout ((keyschedB s.mem.key).flatMap fun k => unbe 6 k.toNat)).after s) :=
  if_neg (not_not.2 hkey)

theorem exec_bKeysched_keylen (hkey : s.mem.key.length ≠ 8) :
    exec .bKeysched s = .next (failedState .dout 1 s) := guard_failed hkey

theorem blockCommandB_next (dir : Dir) (hkey : s.mem.key.length = 8) (hdin : s.mem.din.length = 8) :
    blockCommandB dir s = .next ((Effect.bytes .dout (blockB (keyschedB s.mem.key) s.mem.din dir)).after s) := by
  obtain ⟨hbad, -⟩ | ⟨-, hbad, -⟩ | ⟨-, -, h⟩ := blockCommandB_cases (s := s) dir
  · exact absurd hkey hbad
  · exact absurd hdin hbad
  · exact h

theorem blockCommandB_keylen (dir : Dir) (hkey : s.mem.key.length ≠ 8) :
    blockCommandB dir s = .next (failedState .dout 1 s) := by
  simpa [hkey] using blockCommandB_cases (s := s) dir

theorem blockCommandB_contract (dir : Dir) (hkey : s.mem.key.length = 8) (hdin : s.mem.din.length ≠ 8) :
    blockCommandB dir s = .next (failedState .dout 8 s) := by
  simpa [hkey, hdin] using blockCommandB_cases (s := s) dir

/-- Settles O12: one rule for each result and each failure, both directions of B_BLOCK being one command. -/
theorem keyschedAndBlockOfCipherB : Obligations.KeyschedAndBlockOfCipherB :=
  ⟨rfl, rfl, rfl, fun s =>
    ⟨fun hkey => ⟨keyschedB_length s.mem.key, after_bytes_dout s _ ▸ exec_bKeysched hkey⟩,
      fun hkey hdin => ⟨after_bytes_dout s _ ▸ blockCommandB_next .enc hkey hdin,
        after_bytes_dout s _ ▸ blockCommandB_next .dec hkey hdin⟩,
      fun hkey => ⟨exec_bKeysched_keylen hkey, blockCommandB_keylen .enc hkey, blockCommandB_keylen .dec hkey⟩,
      fun hkey hdin => ⟨blockCommandB_contract .enc hkey hdin, blockCommandB_contract .dec hkey hdin⟩⟩⟩

end Sys2Proof.Machine
end

section
/-! PROOFS. Cipher B's padding and chained mode (spec/43_cipher_b_feistel.md): what pad removal accepts (R206, R207),
each block of both loops (R208, R209), and the commands (R215, R216). -/

namespace Sys2Proof.Machine

-- Elaborating many proofs at once exhausts the memory limit of the check, as in the model's own tests.
set_option Elab.async false

/-! Padding (43_cipher_b_feistel.md R206, R207) -/

section
variable {q m : List Byte} {v : Nat}

/-- Pad removal takes v bytes of value v from any message. -/
theorem unpad7_append_replicate (hpos : 1 ≤ v) (hle : v ≤ 8) :
    unpad7 (m ++ List.replicate v (BitVec.ofNat 8 v)) = some m := by
  have hlast : (m ++ List.replicate v (BitVec.ofNat 8 v)).getLast? = some (BitVec.ofNat 8 v) := by
    rw [List.getLast?_append, List.getLast?_replicate, if_neg (by omega)]
    rfl
  have hnum : (BitVec.ofNat 8 v).toNat = v := by rw [BitVec.toNat_ofNat]; omega
  simp only [unpad7, hlast, hnum, List.length_append, List.length_replicate, Nat.add_sub_cancel, List.drop_left,
    List.take_left]
  rw [if_neg (by omega), if_neg (by simp)]

/-- What pad removal takes is v bytes of value v, from a sequence long enough to hold any pad. -/
theorem eq_append_replicate_of_unpad7 (hq : q = [] ∨ 8 ≤ q.length) (h : unpad7 q = some m) :
    ∃ v, 1 ≤ v ∧ v ≤ 8 ∧ q = m ++ List.replicate v (BitVec.ofNat 8 v) := by
  unfold unpad7 at h
  split at h
  case h_1 => cases h
  case h_2 x hlast =>
    have hne : q ≠ [] := by rintro rfl; cases hlast
    split_ifs at h with hrange hpad
    obtain rfl := Option.some.inj h
    have hlen : 8 ≤ q.length := hq.resolve_left hne
    refine ⟨x.toNat, by omega, by omega, ?_⟩
    have hdrop : q.drop (q.length - x.toNat) = List.replicate x.toNat x :=
      List.eq_replicate_iff.2 ⟨by rw [List.length_drop]; omega, by simpa using hpad⟩
    rw [BitVec.ofNat_toNat, BitVec.setWidth_eq, ← hdrop, List.take_append_drop]

end

/-- Settles O15: the two directions of pad removal, a whole number of blocks being none or long enough for any pad. -/
theorem unpadRemovesExactlyThePad : Obligations.UnpadRemovesExactlyThePad := by
  refine ⟨fun q m hq => ⟨fun h => ?_, ?_⟩, fun m => ⟨unpad7_pad7 m, ?_, ?_⟩⟩
  · have hblocks : q = [] ∨ 8 ≤ q.length := by rw [← List.length_eq_zero_iff]; omega
    exact eq_append_replicate_of_unpad7 hblocks h
  · rintro ⟨v, hpos, hle, rfl⟩
    exact unpad7_append_replicate hpos hle
  · rw [pad7_length, padLen]; omega
  · rw [pad7_length, padLen]; omega

/-! Blocks of byte sequences (00_scope.md R10) -/

section
variable {n j : Nat} {a b : List Byte}

theorem blockAt_zero (n : Nat) (b : List Byte) : blockAt n b 0 = b.take n := by simp [blockAt]

theorem blockAt_drop (n : Nat) (b : List Byte) (j : Nat) : blockAt n (b.drop n) j = blockAt n b (j + 1) := by
  rw [blockAt, blockAt, List.drop_drop, Nat.mul_succ, Nat.add_comm]

/-- A block put in front is block 0, and the others move up by one. -/
theorem blockAt_append (ha : a.length = n) (b : List Byte) (j : Nat) :
    blockAt n (a ++ b) j = if j = 0 then a else blockAt n b (j - 1) := by
  cases j with
  | zero => rw [blockAt_zero, List.take_left' ha, if_pos rfl]
  | succ j => rw [← blockAt_drop, List.drop_left' ha, if_neg j.succ_ne_zero, Nat.add_sub_cancel]

/-- A byte of a sequence is a byte of one of its blocks. -/
theorem blockAt_getElem? (hn : 0 < n) (b : List Byte) (i : Nat) : (blockAt n b (i / n))[i % n]? = b[i]? := by
  rw [blockAt, List.getElem?_take_of_lt (Nat.mod_lt i hn), List.getElem?_drop, Nat.div_add_mod]

/-- Sequences of one length are equal when their blocks are. -/
theorem eq_of_blockAt_eq (hn : 0 < n) (hlen : a.length = b.length)
    (h : ∀ j, n * j < a.length → blockAt n a j = blockAt n b j) : a = b := by
  refine List.ext_getElem? fun i => ?_
  by_cases hi : i < a.length
  · rw [← blockAt_getElem? hn a, ← blockAt_getElem? hn b, h _ ((Nat.mul_div_le i n).trans_lt hi)]
  · rw [List.getElem?_eq_none (by omega), List.getElem?_eq_none (by omega)]

end

/-! The loops of chained mode, block by block (43_cipher_b_feistel.md R208, R209) -/

section
variable {sk : List (BitVec 48)} {k j : Nat}

/-- Each block of chained encryption is the encryption of the padded block XOR the ciphertext block before it. -/
theorem cbcEncLoop_blockAt (prev q : List Byte) (hj : j < k) :
    blockAt 8 (cbcEncLoop sk k prev q) j =
      blockB sk (xorb (blockAt 8 q j) (if j = 0 then prev else blockAt 8 (cbcEncLoop sk k prev q) (j - 1))) .enc := by
  induction k generalizing prev q j with
  | zero => omega
  | succ k ih =>
    simp only [cbcEncLoop, blockAt_append (blockB_length _ _ _)]
    cases j with
    | zero => simp only [if_true, blockAt_zero]
    | succ j =>
      simp only [j.succ_ne_zero, if_false, Nat.add_sub_cancel, ← blockAt_drop]
      exact ih _ _ (Nat.lt_of_succ_lt_succ hj)

/-- Chained decryption of whole blocks keeps the length. -/
theorem cbcDecLoop_length {prev ct : List Byte} (hprev : prev.length = 8) (hct : ct.length = 8 * k) :
    (cbcDecLoop sk k prev ct).length = 8 * k := by
  induction k generalizing prev ct with
  | zero => rfl
  | succ k ih =>
    rw [cbcDecLoop, List.length_append, xorb_length, blockB_length, hprev,
      ih (by rw [List.length_take]; omega) (by rw [List.length_drop]; omega)]
    omega

/-- Each block of chained decryption is the decryption of a ciphertext block XOR the ciphertext block before it. -/
theorem cbcDecLoop_blockAt {prev ct : List Byte} (hprev : prev.length = 8) (hct : ct.length = 8 * k) (hj : j < k) :
    blockAt 8 (cbcDecLoop sk k prev ct) j =
      xorb (blockB sk (blockAt 8 ct j) .dec) (if j = 0 then prev else blockAt 8 ct (j - 1)) := by
  induction k generalizing prev ct j with
  | zero => omega
  | succ k ih =>
    have hfirst : (ct.take 8).length = 8 := by rw [List.length_take]; omega
    rw [cbcDecLoop, blockAt_append (by rw [xorb_length, blockB_length, hprev, Nat.min_self])]
    cases j with
    | zero => simp only [if_true, blockAt_zero]
    | succ j =>
      simp only [j.succ_ne_zero, if_false, Nat.add_sub_cancel]
      rw [ih hfirst (by rw [List.length_drop]; omega) (Nat.lt_of_succ_lt_succ hj), blockAt_drop]
      cases j with
      | zero => simp only [if_true, blockAt_zero]
      | succ j => simp only [j.succ_ne_zero, if_false, Nat.add_sub_cancel, blockAt_drop]

/-- The recurrence of chained decryption has one solution. -/
theorem eq_cbcDecLoop {prev ct q : List Byte} (hprev : prev.length = 8) (hct : ct.length = 8 * k)
    (hq : q.length = 8 * k)
    (h : ∀ j, 8 * j < q.length →
      blockAt 8 q j = xorb (blockB sk (blockAt 8 ct j) .dec) (if j = 0 then prev else blockAt 8 ct (j - 1))) :
    q = cbcDecLoop sk k prev ct :=
  eq_of_blockAt_eq (by decide) (hq.trans (cbcDecLoop_length hprev hct).symm) fun j hj =>
    (h j hj).trans (cbcDecLoop_blockAt hprev hct (by omega)).symm

end

/-! The commands (43_cipher_b_feistel.md R215, R216) -/

variable {s : State}

theorem exec_bCbcE_keylen (hkey : s.mem.key.length ≠ 8) : exec .bCbcE s = .next (failedState .dout 1 s) :=
  guard_failed hkey

theorem exec_bCbcE_ivlen (hkey : s.mem.key.length = 8) (hiv : s.mem.iv.length ≠ 8) :
    exec .bCbcE s = .next (failedState .dout 2 s) :=
  (if_neg (not_not.2 hkey)).trans (guard_failed hiv)

theorem exec_bCbcE_cap (hkey : s.mem.key.length = 8) (hiv : s.mem.iv.length = 8)
    (hcap : s.cfg.bufCap < s.mem.din.length + 8 - s.mem.din.length % 8) :
    exec .bCbcE s = .next (failedState .dout 9 s) :=
  (if_neg (not_not.2 hkey)).trans ((if_neg (not_not.2 hiv)).trans (guard_failed hcap))

theorem exec_bCbcD_keylen (hkey : s.mem.key.length ≠ 8) : exec .bCbcD s = .next (failedState .dout 1 s) :=
  guard_failed hkey

theorem exec_bCbcD_ivlen (hkey : s.mem.key.length = 8) (hiv : s.mem.iv.length ≠ 8) :
    exec .bCbcD s = .next (failedState .dout 2 s) :=
  (if_neg (not_not.2 hkey)).trans (guard_failed hiv)

theorem exec_bCbcD_ctlen (hkey : s.mem.key.length = 8) (hiv : s.mem.iv.length = 8)
    (hdin : s.mem.din.length % 8 ≠ 0) : exec .bCbcD s = .next (failedState .dout 5 s) :=
  (if_neg (not_not.2 hkey)).trans ((if_neg (not_not.2 hiv)).trans (guard_failed hdin))

/-- On whole blocks B_CBC.D ends with what chained decryption gives, or with ERR_PAD. -/
theorem exec_bCbcD_blocks (hkey : s.mem.key.length = 8) (hiv : s.mem.iv.length = 8)
    (hdin : s.mem.din.length % 8 = 0) :
    exec .bCbcD s = finishBytes .pad (cbcDecB (keyschedB s.mem.key) s.mem.iv s.mem.din) s :=
  (if_neg (not_not.2 hkey)).trans ((if_neg (not_not.2 hiv)).trans (if_neg (not_not.2 hdin)))

/-- Settles O16: the result is chained encryption's, whose blocks are read off its loop. -/
theorem chainedEncryptionChainsBlocks : Obligations.ChainedEncryptionChainsBlocks := by
  refine ⟨rfl, fun s => ⟨fun hkey hiv hcap => ?result, exec_bCbcE_keylen, exec_bCbcE_ivlen, fun hkey hiv hcap => ?cap⟩⟩
  case result =>
    have hlen := cbcEncB_length (keyschedB s.mem.key) s.mem.iv s.mem.din
    refine ⟨_, exec_bCbcE hkey hiv (by omega), by omega, fun j hj => cbcEncLoop_blockAt _ _ ?_⟩
    rw [pad7_length, padLen]
    omega
  case cap => exact exec_bCbcE_cap hkey hiv (by omega)

/-- Settles O17: chained decryption is the one q that meets the recurrence, and the command ends as its pad removal
does. -/
theorem chainedDecryptionStripsPad : Obligations.ChainedDecryptionStripsPad := by
  refine ⟨rfl, fun s => ⟨fun q hkey hiv hdin hlen hblocks => ?result, exec_bCbcD_keylen, exec_bCbcD_ivlen,
    exec_bCbcD_ctlen⟩⟩
  case result =>
    have hct : s.mem.din.length = 8 * (s.mem.din.length / 8) := by omega
    have hplain : cbcDecB (keyschedB s.mem.key) s.mem.iv s.mem.din = unpad7 q :=
      congrArg unpad7 (eq_cbcDecLoop hiv hct (hlen.trans hct) hblocks).symm
    rw [exec_bCbcD_blocks hkey hiv hdin, hplain]
    refine ⟨fun m hm => ?_, fun hnone => ?_⟩
    · rw [hm]; rfl
    · rw [hnone]; exact (raise_next .dout .pad).2 rfl

end Sys2Proof.Machine
end

section
/-! SUPPORT. Letters, the case-preserving rotation (spec/44_classical_1.md R231, R232) and what every text command
shares: how a result in TOUT and a failure look, and two commands with a MOVT between them. -/

namespace Sys2Proof.Machine

-- Elaborating many proofs at once exhausts the memory limit of the check, as in the model's own tests.
set_option Elab.async false

/-! Letters (00_scope.md R13) -/

section
variable {i : Nat}

theorem upc_toNat (hi : i < 26) : (upc i).toNat = 0x41 + i := by
  rw [upc, BitVec.toNat_ofNat]; omega

theorem loc_toNat (hi : i < 26) : (loc i).toNat = 0x61 + i := by
  rw [loc, BitVec.toNat_ofNat]; omega

theorem isup_upc (hi : i < 26) : isup (upc i) = true := by
  simp only [isup, upc_toNat hi, Bool.and_eq_true, decide_eq_true_eq]; omega

theorem isup_loc (hi : i < 26) : isup (loc i) = false := by
  simp only [isup, loc_toNat hi, Bool.and_eq_false_iff, decide_eq_false_iff_not]; omega

theorem islo_loc (hi : i < 26) : islo (loc i) = true := by
  simp only [islo, loc_toNat hi, Bool.and_eq_true, decide_eq_true_eq]; omega

theorem islet_upc (hi : i < 26) : islet (upc i) = true := by simp [islet, isup_upc hi]

theorem islet_loc (hi : i < 26) : islet (loc i) = true := by simp [islet, islo_loc hi]

theorem idx_upc (hi : i < 26) : idx (upc i) = i := by
  rw [idx, if_pos (isup_upc hi), upc_toNat hi]; omega

theorem idx_loc (hi : i < 26) : idx (loc i) = i := by
  rw [idx, if_neg (by simp [isup_loc hi]), loc_toNat hi]; omega

end

/-- A cell is an upper-case letter, a lower-case letter or no letter (00_scope.md R13). -/
theorem cell_cases (c : Cell) :
    (∃ i, i < 26 ∧ c = upc i) ∨ (∃ i, i < 26 ∧ c = loc i) ∨ islet c = false := by
  have hlt := c.isLt
  by_cases hup : 0x41 ≤ c.toNat ∧ c.toNat ≤ 0x5A
  · exact .inl ⟨c.toNat - 0x41, by omega, BitVec.eq_of_toNat_eq (by rw [upc_toNat (by omega)]; omega)⟩
  by_cases hlo : 0x61 ≤ c.toNat ∧ c.toNat ≤ 0x7A
  · exact .inr (.inl ⟨c.toNat - 0x61, by omega, BitVec.eq_of_toNat_eq (by rw [loc_toNat (by omega)]; omega)⟩)
  · refine .inr (.inr ?_)
    simp only [islet, isup, islo, Bool.or_eq_false_iff, Bool.and_eq_false_iff, decide_eq_false_iff_not]
    omega

/-- A letter's index is one of 0 to 25. -/
theorem idx_lt {c : Cell} (hc : islet c = true) : idx c < 26 := by
  obtain ⟨i, hi, rfl⟩ | ⟨i, hi, rfl⟩ | hno := cell_cases c
  · rwa [idx_upc hi]
  · rwa [idx_loc hi]
  · exact absurd hc (by simp [hno])

/-! The letter map -/

theorem letterMap_upc (f : Nat → Nat) {i : Nat} (hi : i < 26) : letterMap f (upc i) = upc (f i % 26) := by
  rw [letterMap, upc_toNat hi, if_pos (by omega), Nat.add_sub_cancel_left, upc]

theorem letterMap_loc (f : Nat → Nat) {i : Nat} (hi : i < 26) : letterMap f (loc i) = loc (f i % 26) := by
  rw [letterMap, loc_toNat hi, if_neg (by omega), if_pos (by omega), Nat.add_sub_cancel_left, loc]

theorem letterMap_of_not_islet (f : Nat → Nat) {c : Cell} (hc : islet c = false) : letterMap f c = c := by
  simp only [islet, isup, islo, Bool.or_eq_false_iff, Bool.and_eq_false_iff, decide_eq_false_iff_not] at hc
  rw [letterMap, if_neg (by omega), if_neg (by omega)]

/-- The letter map by f looks at f modulo 26. -/
theorem letterMap_congr {f g : Nat → Nat} (h : ∀ i, f i % 26 = g i % 26) : letterMap f = letterMap g := by
  funext c
  simp only [letterMap, h]

/-! Rotation (44_classical_1.md R231, R232) -/

section
variable {i : Nat} (k : Nat)

theorem rotc_upc (hi : i < 26) : rotc (upc i) k = upc ((i + k) % 26) := by
  rw [rotc, if_pos (isup_upc hi), idx_upc hi]

theorem rotc_loc (hi : i < 26) : rotc (loc i) k = loc ((i + k) % 26) := by
  rw [rotc, if_neg (by simp [isup_loc hi]), if_pos (islo_loc hi), idx_loc hi]

theorem rotc_of_not_islet {c : Cell} (hc : islet c = false) : rotc c k = c := by
  obtain ⟨hup, hlo⟩ : isup c = false ∧ islo c = false := by simpa [islet] using hc
  simp [rotc, hup, hlo]

/-- Rotation is the letter map that adds k. -/
theorem rotc_eq_letterMap (c : Cell) : rotc c k = letterMap (fun i => i + k) c := by
  obtain ⟨i, hi, rfl⟩ | ⟨i, hi, rfl⟩ | hno := cell_cases c
  · rw [rotc_upc k hi, letterMap_upc _ hi]
  · rw [rotc_loc k hi, letterMap_loc _ hi]
  · rw [rotc_of_not_islet k hno, letterMap_of_not_islet _ hno]

/-- Rotation keeps letters letters and other cells other. -/
@[simp] theorem islet_rotc (c : Cell) : islet (rotc c k) = islet c := by
  have hmod : ∀ i, (i + k) % 26 < 26 := fun i => Nat.mod_lt _ (by decide)
  obtain ⟨i, hi, rfl⟩ | ⟨i, hi, rfl⟩ | hno := cell_cases c
  · rw [rotc_upc k hi, islet_upc (hmod i), islet_upc hi]
  · rw [rotc_loc k hi, islet_loc (hmod i), islet_loc hi]
  · rw [rotc_of_not_islet k hno]

/-- Two rotations that make up whole turns give the cell back. -/
theorem rotc_rotc_cancel {k l : Nat} (h : (k + l) % 26 = 0) (c : Cell) : rotc (rotc c k) l = c := by
  have hmod : ∀ i, (i + k) % 26 < 26 := fun i => Nat.mod_lt _ (by decide)
  have hback : ∀ i, i < 26 → ((i + k) % 26 + l) % 26 = i := fun i hi => by omega
  obtain ⟨i, hi, rfl⟩ | ⟨i, hi, rfl⟩ | hno := cell_cases c
  · rw [rotc_upc k hi, rotc_upc l (hmod i), hback i hi]
  · rw [rotc_loc k hi, rotc_loc l (hmod i), hback i hi]
  · rw [rotc_of_not_islet k hno, rotc_of_not_islet l hno]

end

/-- A shift and its decrypting shift make up whole turns (44_classical_1.md R231). -/
theorem add_negShift_mod {k : Nat} (hk : k < 26) : (k + negShift k) % 26 = 0 := by
  rw [negShift]; omega

theorem negShift_add_mod {k : Nat} (hk : k < 26) : (negShift k + k) % 26 = 0 := by
  rw [Nat.add_comm, add_negShift_mod hk]

/-- Rotating by the decrypting shift is adding 26 − k. -/
theorem rotc_negShift (c : Cell) (k : Nat) : rotc c (negShift k) = letterMap (fun i => i + (26 - k)) c := by
  rw [rotc_eq_letterMap, letterMap_congr fun i => ?_]
  rw [negShift, Nat.add_mod_mod]

/-- A parameter reduced modulo 26 is one of 0 to 25 (44_classical_1.md R231). -/
theorem param26_lt (r : Word) : param26 r < 26 := by
  rw [param26, floorMod26]; omega

/-! Text commands -/

variable {s : State} {i j : Instr}

/-- A result in TOUT: TOUT and STATUS change and nothing else does. -/
theorem after_cells_tout (s : State) (v : List Cell) :
    (Effect.cells .tout v).after s = { s with mem := { s.mem with tout := v }, status := 0 } := rfl

theorem exec_movt (s : State) : exec .movt s = .next ((Effect.cells .tin s.mem.tout).after s) := rfl

/-- The state in which r stands in TIN and TOUT, as MOVT leaves it after a command with the result r. -/
def movedText (r : List Cell) (s : State) : State := (Effect.cells .tin r).after ((Effect.cells .tout r).after s)

@[simp] theorem movedText_tin (r : List Cell) (s : State) : (movedText r s).mem.tin = r := rfl
@[simp] theorem movedText_p0 (r : List Cell) (s : State) : (movedText r s).p0 = s.p0 := rfl

/-- Two text commands with a MOVT between them, the second giving m from the result r of the first. -/
theorem runCommands_textRoundTrip {r m : List Cell} (hi : exec i s = .next ((Effect.cells .tout r).after s))
    (hj : exec j (movedText r s) = .next ((Effect.cells .tout m).after (movedText r s))) :
    ∃ t, runCommands [i, .movt, j] s = .next t ∧ t.mem.tout = m ∧ t.status = 0 := by
  refine ⟨(Effect.cells .tout m).after (movedText r s), ?_, rfl, rfl⟩
  rw [runCommands_cons_of_next hi, runCommands_cons_of_next (exec_movt _)]
  exact runCommands_cons_of_next hj

end Sys2Proof.Machine
end

section
/-! PROOFS. SHIFT and ROT13 (spec/44_classical_1.md R233 to R235, R242): rotation of every cell by one amount. -/

namespace Sys2Proof.Machine

-- Elaborating many proofs at once exhausts the memory limit of the check, as in the model's own tests.
set_option Elab.async false

theorem exec_shiftE (s : State) :
    exec .shiftE s = .next ((Effect.cells .tout (s.mem.tin.map fun c => rotc c (param26 s.p0))).after s) := rfl

theorem exec_shiftD (s : State) :
    exec .shiftD s =
      .next ((Effect.cells .tout (s.mem.tin.map fun c => rotc c (negShift (param26 s.p0)))).after s) := rfl

theorem exec_rot13 (dir : BitVec 1) (s : State) :
    exec (.rot13 dir) s = .next ((Effect.cells .tout (s.mem.tin.map fun c => rotc c 13)).after s) := rfl

/-- A whole text rotated: the letter map that adds k, cell by cell. -/
theorem map_rotc (k : Nat) (text : List Cell) :
    (text.map fun c => rotc c k) = text.map (letterMap fun i => i + k) :=
  List.map_congr_left fun c _ => rotc_eq_letterMap k c

/-- A whole text rotated back: the letter map that adds 26 − k, cell by cell. -/
theorem map_rotc_negShift (k : Nat) (text : List Cell) :
    (text.map fun c => rotc c (negShift k)) = text.map (letterMap fun i => i + (26 - k)) :=
  List.map_congr_left fun c _ => rotc_negShift c k

/-- Rotating a whole text on by what makes up whole turns gives the text back. -/
theorem map_rotc_map_rotc_cancel {k l : Nat} (h : (k + l) % 26 = 0) (text : List Cell) :
    ((text.map fun c => rotc c k).map fun c => rotc c l) = text := by
  rw [List.map_map]
  exact List.map_id'' (fun c => rotc_rotc_cancel h c) text

/-- Settles O20: rotation is the letter map that adds, and back is adding 26 − k. -/
theorem shiftRotatesLetters : Obligations.ShiftRotatesLetters := by
  refine ⟨rfl, rfl, fun s => ⟨?_, ?_⟩⟩
  · have hexec := exec_shiftE s
    rw [map_rotc, after_cells_tout] at hexec
    exact hexec
  · have hexec := exec_shiftD s
    rw [map_rotc_negShift, after_cells_tout] at hexec
    exact hexec

/-- Settles O22: SHIFT leaves P0, so the second command rotates by the shift that undoes the first. -/
theorem shiftDirectionsAreInverse : Obligations.ShiftDirectionsAreInverse := by
  refine fun s => ⟨runCommands_textRoundTrip (exec_shiftE s) ?_, runCommands_textRoundTrip (exec_shiftD s) ?_⟩
  · rw [exec_shiftD, movedText_tin, movedText_p0, map_rotc_map_rotc_cancel (add_negShift_mod (param26_lt _))]
  · rw [exec_shiftE, movedText_tin, movedText_p0, map_rotc_map_rotc_cancel (negShift_add_mod (param26_lt _))]

/-- Settles O21: 13 is its own decrypting shift. -/
theorem rot13IsShiftByThirteen : Obligations.Rot13IsShiftByThirteen := by
  refine ⟨rfl, rfl, fun dir dir' s => ⟨?rotates, ?twice, fun hp0 => ?shifts⟩⟩
  case rotates =>
    have hexec := exec_rot13 dir s
    rw [map_rotc, after_cells_tout] at hexec
    exact hexec
  case twice =>
    refine runCommands_textRoundTrip (exec_rot13 dir s) ?_
    rw [exec_rot13, movedText_tin, map_rotc_map_rotc_cancel (by decide)]
  case shifts =>
    have hk : param26 s.p0 = 13 := by rw [hp0]; decide
    have hneg : negShift 13 = 13 := by decide
    rw [exec_shiftE, exec_shiftD, exec_rot13, hk, hneg, and_self]

end Sys2Proof.Machine
end

section
/-! PROOFS. POLY (spec/44_classical_1.md R236 to R240): the running key seen cell by cell, and undone. -/

namespace Sys2Proof.Machine

-- Elaborating many proofs at once exhausts the memory limit of the check, as in the model's own tests.
set_option Elab.async false

variable {s : State} {eff eff' : Nat → Nat} {key : List Cell}

/-- The index of the key letter that meets the n-th letter of the text (44_classical_1.md R237). -/
def polyKeyIdx (key : List Cell) (n : Nat) : Nat := idx (key.getD (n % key.length) 0)

/-- The key letters of a usable key have indices 0 to 25 (44_classical_1.md R236). -/
theorem polyKeyIdx_lt (hne : key ≠ []) (hkey : ∀ c ∈ key, islet c = true) (n : Nat) : polyKeyIdx key n < 26 := by
  have hn : n % key.length < key.length := Nat.mod_lt _ (List.length_pos_iff.2 hne)
  rw [polyKeyIdx, List.getD_eq_getElem _ _ hn]
  exact idx_lt (hkey _ (List.getElem_mem hn))

theorem polyLoop_cons_letter {c : Cell} (hc : islet c = true) (j : Nat) (cs : List Cell) :
    polyLoop eff key j (c :: cs) = rotc c (eff (polyKeyIdx key j)) :: polyLoop eff key (j + 1) cs := if_pos hc

theorem polyLoop_cons_other {c : Cell} (hc : islet c = false) (j : Nat) (cs : List Cell) :
    polyLoop eff key j (c :: cs) = c :: polyLoop eff key j cs := if_neg (by simp [hc])

/-- Cell i is rotated by the key letter that the letters before it have advanced to (44_classical_1.md R237). -/
theorem polyLoop_getD (j : Nat) {text : List Cell} {i : Nat} (hi : i < text.length) :
    (polyLoop eff key j text).getD i 0 =
      rotc (text.getD i 0) (eff (polyKeyIdx key (j + (text.take i).countP islet))) := by
  induction text generalizing i j with
  | nil => simp at hi
  | cons c cs ih =>
    cases hc : islet c with
    | true =>
      rw [polyLoop_cons_letter hc]
      cases i with
      | zero => simp
      | succ i =>
        simp only [List.getD_cons_succ, List.take_succ_cons, List.countP_cons, hc, if_true]
        rw [ih _ (Nat.lt_of_succ_lt_succ hi), Nat.add_right_comm, Nat.add_assoc]
    | false =>
      rw [polyLoop_cons_other hc]
      cases i with
      | zero => simp [rotc_of_not_islet _ hc]
      | succ i =>
        simp only [List.getD_cons_succ, List.take_succ_cons, List.countP_cons, hc, Bool.false_eq_true, if_false,
          Nat.add_zero]
        exact ih _ (Nat.lt_of_succ_lt_succ hi)

/-- Running the key over the result again undoes it, when at every key letter the two shifts make up whole turns: both
passes meet the letters at the same places. -/
theorem polyLoop_polyLoop_cancel (h : ∀ n, (eff (polyKeyIdx key n) + eff' (polyKeyIdx key n)) % 26 = 0) (j : Nat)
    (text : List Cell) : polyLoop eff' key j (polyLoop eff key j text) = text := by
  induction text generalizing j with
  | nil => rfl
  | cons c cs ih =>
    cases hc : islet c with
    | true => rw [polyLoop_cons_letter hc, polyLoop_cons_letter (by rwa [islet_rotc]), rotc_rotc_cancel (h j), ih]
    | false => rw [polyLoop_cons_other hc, polyLoop_cons_other hc, ih]

theorem polySub_polyAdd (hne : key ≠ []) (hkey : ∀ c ∈ key, islet c = true) (text : List Cell) :
    polySub (polyAdd text key) key = text :=
  polyLoop_polyLoop_cancel (fun n => add_negShift_mod (polyKeyIdx_lt hne hkey n)) 0 text

theorem polyAdd_polySub (hne : key ≠ []) (hkey : ∀ c ∈ key, islet c = true) (text : List Cell) :
    polyAdd (polySub text key) key = text :=
  polyLoop_polyLoop_cancel (fun n => negShift_add_mod (polyKeyIdx_lt hne hkey n)) 0 text

/-! The commands (44_classical_1.md R238, R239) -/

/-- A usable key is a key that is not empty and all letters (44_classical_1.md R236). -/
theorem polyKeyOk_iff : polyKeyOk key = true ↔ key ≠ [] ∧ ∀ c ∈ key, islet c = true := by
  simp [polyKeyOk, List.length_pos_iff]

theorem polyKeyOk_of_bad (h : key = [] ∨ ∃ c ∈ key, islet c = false) : ¬ polyKeyOk key = true := by
  rw [polyKeyOk_iff]
  rintro ⟨hne, hkey⟩
  obtain hnil | ⟨c, hc, hno⟩ := h
  · exact hne hnil
  · simp [hkey c hc] at hno

theorem exec_polyE (hne : s.mem.tkey ≠ []) (hkey : ∀ c ∈ s.mem.tkey, islet c = true) :
    exec .polyE s = .next ((Effect.cells .tout (polyAdd s.mem.tin s.mem.tkey)).after s) :=
  if_pos (polyKeyOk_iff.2 ⟨hne, hkey⟩)

theorem exec_polyD (hne : s.mem.tkey ≠ []) (hkey : ∀ c ∈ s.mem.tkey, islet c = true) :
    exec .polyD s = .next ((Effect.cells .tout (polySub s.mem.tin s.mem.tkey)).after s) :=
  if_pos (polyKeyOk_iff.2 ⟨hne, hkey⟩)

theorem exec_polyE_contract (h : s.mem.tkey = [] ∨ ∃ c ∈ s.mem.tkey, islet c = false) :
    exec .polyE s = .next (failedState .tout 8 s) :=
  (if_neg (polyKeyOk_of_bad h)).trans ((raise_next .tout .contract).2 rfl)

theorem exec_polyD_contract (h : s.mem.tkey = [] ∨ ∃ c ∈ s.mem.tkey, islet c = false) :
    exec .polyD s = .next (failedState .tout 8 s) :=
  (if_neg (polyKeyOk_of_bad h)).trans ((raise_next .tout .contract).2 rfl)

/-- POLY.D gives back what POLY.E made under the same key (44_classical_1.md R240). -/
theorem exec_polyD_undoes {m : List Cell} (hne : s.mem.tkey ≠ []) (hkey : ∀ c ∈ s.mem.tkey, islet c = true)
    (htin : s.mem.tin = polyAdd m s.mem.tkey) : exec .polyD s = .next ((Effect.cells .tout m).after s) := by
  rw [exec_polyD hne hkey, htin, polySub_polyAdd hne hkey]

/-- POLY.E gives back what POLY.D made under the same key (44_classical_1.md R240). -/
theorem exec_polyE_undoes {m : List Cell} (hne : s.mem.tkey ≠ []) (hkey : ∀ c ∈ s.mem.tkey, islet c = true)
    (htin : s.mem.tin = polySub m s.mem.tkey) : exec .polyE s = .next ((Effect.cells .tout m).after s) := by
  rw [exec_polyE hne hkey, htin, polyAdd_polySub hne hkey]

/-- Settles O23: each cell is read off the loop, started at the first key letter. -/
theorem polyShiftsByRepeatingKey : Obligations.PolyShiftsByRepeatingKey := by
  refine ⟨rfl, rfl, fun s => ⟨fun hne hkey => ⟨?add, ?sub⟩, fun h => ⟨exec_polyE_contract h, exec_polyD_contract h⟩⟩⟩
  case add =>
    refine ⟨_, exec_polyE hne hkey, polyLoop_length _ _ _ _, fun i hi => ?_⟩
    rw [polyAdd, polyLoop_getD 0 hi, rotc_eq_letterMap, Nat.zero_add]
    rfl
  case sub =>
    refine ⟨_, exec_polyD hne hkey, polyLoop_length _ _ _ _, fun i hi => ?_⟩
    rw [polySub, polyLoop_getD 0 hi, rotc_negShift, Nat.zero_add]
    rfl

/-- Settles O24: POLY leaves TKEY, so the second command runs the same key over the result of the first. -/
theorem polyDirectionsAreInverse : Obligations.PolyDirectionsAreInverse := fun _ hne hkey =>
  ⟨runCommands_textRoundTrip (exec_polyE hne hkey) (exec_polyD_undoes hne hkey rfl),
    runCommands_textRoundTrip (exec_polyD hne hkey) (exec_polyE_undoes hne hkey rfl)⟩

end Sys2Proof.Machine
end

section
/-! PROOFS. The column order of TRANSP (spec/44_classical_1.md R244), the columns read out cell by cell (R245, R247),
the grid filled back (R246, R248), and the round trip (R249). -/

namespace Sys2Proof.Machine

-- Elaborating many proofs at once exhausts the memory limit of the check, as in the model's own tests.
set_option Elab.async false

/-! The column order (44_classical_1.md R244) -/

section
variable {key : List Cell}

/-- Column a stands before column b: a smaller key cell, or an equal one and a smaller index. -/
def ColumnBefore (key : List Cell) (a b : Nat) : Prop :=
  (key.getD a 0).toNat < (key.getD b 0).toNat ∨ (key.getD a 0 = key.getD b 0 ∧ a < b)

theorem ColumnBefore.of_lt_of_before {a b c : Nat} (hab : (key.getD a 0).toNat < (key.getD b 0).toNat)
    (hbc : ColumnBefore key b c) : ColumnBefore key a c := by
  obtain hlt | ⟨heq, -⟩ := hbc
  · exact .inl (hab.trans hlt)
  · exact .inl (heq ▸ hab)

/-- Where the new column is not put before an older one, it belongs after it. -/
theorem ColumnBefore.of_not_lt {a b : Nat} (h : ¬ (key.getD a 0).toNat < (key.getD b 0).toNat) (hba : b < a) :
    ColumnBefore key b a := by
  obtain hlt | heq := (not_lt.1 h).lt_or_eq
  · exact .inl hlt
  · exact .inr ⟨BitVec.eq_of_toNat_eq heq, hba⟩

/-- Inserting a column of a larger index than all others keeps the order. -/
theorem insertColumn_pairwise {col : Nat} {order : List Nat} (hlt : ∀ d ∈ order, d < col)
    (h : order.Pairwise (ColumnBefore key)) : (insertColumn key col order).Pairwise (ColumnBefore key) := by
  induction order with
  | nil => exact List.pairwise_singleton _ _
  | cons d ds ih =>
    obtain ⟨hfirst, hrest⟩ := List.pairwise_cons.1 h
    unfold insertColumn
    split
    case isTrue hcell =>
      refine List.pairwise_cons.2 ⟨fun x hx => ?_, h⟩
      obtain rfl | hx := List.mem_cons.1 hx
      · exact .inl hcell
      · exact (hfirst x hx).of_lt_of_before hcell
    case isFalse hcell =>
      refine List.pairwise_cons.2 ⟨fun x hx => ?_, ih (fun x hx => hlt x (List.mem_cons_of_mem d hx)) hrest⟩
      obtain rfl | hx := List.mem_cons.1 ((insertColumn_perm key col ds).mem_iff.1 hx)
      · exact .of_not_lt hcell (hlt d List.mem_cons_self)
      · exact hfirst x hx

/-- The first n columns inserted one after another. -/
def orderOfFirst (key : List Cell) (n : Nat) : List Nat :=
  (List.range n).foldl (fun order col => insertColumn key col order) []

theorem colorder_eq_orderOfFirst (key : List Cell) : colorder key = orderOfFirst key key.length := rfl

theorem orderOfFirst_succ (key : List Cell) (n : Nat) :
    orderOfFirst key (n + 1) = insertColumn key n (orderOfFirst key n) := by
  simp [orderOfFirst, List.range_succ]

theorem lt_of_mem_orderOfFirst {n d : Nat} (hd : d ∈ orderOfFirst key n) : d < n := by
  induction n with
  | zero => cases hd
  | succ n ih =>
    rw [orderOfFirst_succ, (insertColumn_perm key n _).mem_iff] at hd
    obtain rfl | hd := List.mem_cons.1 hd
    · exact Nat.lt_succ_self _
    · exact (ih hd).trans (Nat.lt_succ_self n)

theorem orderOfFirst_pairwise (key : List Cell) (n : Nat) : (orderOfFirst key n).Pairwise (ColumnBefore key) := by
  induction n with
  | zero => exact .nil
  | succ n ih => exact orderOfFirst_succ key n ▸ insertColumn_pairwise (fun _ => lt_of_mem_orderOfFirst) ih

/-- Settles O25: the columns are inserted by ascending index, each after the equal ones. -/
theorem columnOrderIsStableSort : Obligations.ColumnOrderIsStableSort := fun key =>
  ⟨colorder_perm key, colorder_eq_orderOfFirst key ▸ orderOfFirst_pairwise key key.length⟩

theorem colorder_length (key : List Cell) : (colorder key).length = key.length := by
  rw [(colorder_perm key).length_eq, List.length_range]

theorem colorder_nodup (key : List Cell) : (colorder key).Nodup :=
  (colorder_perm key).nodup_iff.2 List.nodup_range

theorem mem_colorder_iff {col : Nat} : col ∈ colorder key ↔ col < key.length :=
  (colorder_perm key).mem_iff.trans List.mem_range

theorem colorder_getElem? {k : Nat} (hk : k < key.length) :
    (colorder key)[k]? = some ((colorder key).getD k 0) := by
  have hk' : k < (colorder key).length := by rwa [colorder_length]
  rw [List.getD_eq_getElem _ _ hk', List.getElem?_eq_getElem hk']

theorem colorder_getD_lt {k : Nat} (hk : k < key.length) : (colorder key).getD k 0 < key.length :=
  mem_colorder_iff.1 (List.mem_of_getElem? (colorder_getElem? hk))

/-- The k-th column of the order stands at place k. -/
theorem colorder_idxOf_getD {k : Nat} (hk : k < key.length) :
    (colorder key).idxOf ((colorder key).getD k 0) = k := by
  have hk' : k < (colorder key).length := by rwa [colorder_length]
  rw [List.getD_eq_getElem _ _ hk']
  exact (colorder_nodup key).idxOf_getElem k hk'

/-- A column stands in the order at its place. -/
theorem colorder_getElem?_idxOf {col : Nat} (hcol : col < key.length) :
    (colorder key)[(colorder key).idxOf col]? = some col :=
  List.getElem?_idxOf (mem_colorder_iff.2 hcol)

end

/-! Cells of a grid (44_classical_1.md R245) -/

/-- Place r of the k-th of pieces that all have n elements. -/
theorem flatMap_getElem?_of_length_eq {α β : Type} {f : α → List β} {n r : Nat} (hf : ∀ a, (f a).length = n)
    (hr : r < n) (l : List α) (k : Nat) : (l.flatMap f)[k * n + r]? = l[k]?.bind fun a => (f a)[r]? := by
  induction l generalizing k with
  | nil => simp
  | cons a l ih =>
    rw [List.flatMap_cons]
    cases k with
    | zero => simp [List.getElem?_append_left, hf, hr]
    | succ k =>
      rw [List.getElem?_append_right (by rw [hf, Nat.succ_mul]; omega), hf, List.getElem?_cons_succ, ← ih]
      congr 1
      rw [Nat.succ_mul]; omega

section
variable {fill : Cell} {text key : List Cell} {k r m : Nat}

/-- A cell of the padded grid is the cell of the text there, else the filler. -/
theorem padGrid_getD (g : Nat) : (padGrid fill text m).getD g fill = (stripSpaces text).getD g fill := by
  rw [padGrid]
  by_cases hg : g < (stripSpaces text).length
  · exact List.getD_append _ _ _ _ hg
  · rw [List.getD_append_right _ _ _ _ (not_lt.1 hg), List.getD_eq_getElem?_getD,
      List.getElem?_getD_replicate_default_eq, List.getD_eq_default _ _ (not_lt.1 hg)]

/-- ceil(L / m) rows of m cells have room for L cells. -/
theorem le_ceilDiv_mul (hm : 0 < m) (n : Nat) : n ≤ ceilDiv n m * m := by
  have hdiv := Nat.div_add_mod (n + m - 1) m
  have hmod := Nat.mod_lt (n + m - 1) hm
  rw [ceilDiv, Nat.mul_comm]
  omega

theorem ceilDiv_mul_self (hm : 0 < m) (n : Nat) : ceilDiv (n * m) m = n := by
  rw [ceilDiv, Nat.add_sub_assoc (by omega), Nat.mul_comm, Nat.mul_add_div hm, Nat.div_eq_of_lt (by omega),
    Nat.add_zero]

/-- The padded grid has whole rows. -/
theorem padGrid_length (hm : 0 < m) : (padGrid fill text m).length = ceilDiv (stripSpaces text).length m * m := by
  have hroom := le_ceilDiv_mul hm (stripSpaces text).length
  rw [padGrid, List.length_append, List.length_replicate]
  omega

/-- The padding is all fillers, so dropping these from the grid drops them from the text. -/
theorem padGrid_filter : (padGrid fill text m).filter (· != fill) = (stripSpaces text).filter (· != fill) := by
  rw [padGrid, List.filter_append, List.filter_replicate_of_neg (by simp), List.append_nil]

/-- Row r of the k-th column read stands at place k * R + r of the ciphertext (44_classical_1.md R245). -/
theorem transpEnc_getElem? {col : Nat} (hk : (colorder key)[k]? = some col)
    (hr : r < ceilDiv (stripSpaces text).length key.length) :
    (transpEnc fill text key)[k * ceilDiv (stripSpaces text).length key.length + r]? =
      some ((stripSpaces text).getD (r * key.length + col) fill) := by
  rw [transpEnc, flatMap_getElem?_of_length_eq (by simp) hr, hk, Option.bind_some, List.getElem?_map,
    List.getElem?_range hr, Option.map_some, padGrid_getD]

/-- Row r of the k-th column filled is the ciphertext's cell k * R + r, a missing one the filler
(44_classical_1.md R246). -/
theorem transpGridCell_mul_add (hk : k < key.length) (r : Nat) :
    transpGridCell fill text key (r * key.length + (colorder key).getD k 0) =
      text.getD (k * ceilDiv text.length key.length + r) fill := by
  have hcol := colorder_getD_lt hk
  have hpos : 0 < key.length := by omega
  rw [transpGridCell_eq, transpSource, Nat.mul_add_mod', Nat.mod_eq_of_lt hcol, colorder_idxOf_getD hk,
    Nat.mul_comm r, Nat.mul_add_div hpos, Nat.div_eq_of_lt hcol, Nat.add_zero]

/-- The grid that decryption fills (44_classical_1.md R246). -/
def transpGrid (fill : Cell) (text key : List Cell) : List Cell :=
  (List.range (ceilDiv text.length key.length * key.length)).map (transpGridCell fill text key)

theorem transpDec_eq (fill : Cell) (text key : List Cell) :
    transpDec fill text key = (transpGrid fill text key).filter (· != fill) := rfl

theorem transpGrid_length : (transpGrid fill text key).length = ceilDiv text.length key.length * key.length := by
  simp [transpGrid]

theorem transpGrid_getElem? {g : Nat} (hg : g < ceilDiv text.length key.length * key.length) :
    (transpGrid fill text key)[g]? = some (transpGridCell fill text key g) := by
  simp [transpGrid, hg]

/-- The grid filled from a ciphertext is the padded grid that it was read from. -/
theorem transpGrid_transpEnc (hkey : key ≠ []) :
    transpGrid fill (transpEnc fill text key) key = padGrid fill text key.length := by
  have hpos : 0 < key.length := List.length_pos_iff.2 hkey
  have hrows : ceilDiv (transpEnc fill text key).length key.length = ceilDiv (stripSpaces text).length key.length := by
    rw [transpEnc_length, ceilDiv_mul_self hpos]
  refine List.ext_getElem? fun g => ?_
  by_cases hg : g < ceilDiv (stripSpaces text).length key.length * key.length
  · have hcol := colorder_getElem?_idxOf (Nat.mod_lt g hpos)
    have hrow : g / key.length < ceilDiv (stripSpaces text).length key.length :=
      Nat.div_lt_of_lt_mul (by rwa [Nat.mul_comm])
    have hcell : transpGridCell fill (transpEnc fill text key) key g = (stripSpaces text).getD g fill := by
      rw [transpGridCell_eq, transpSource, hrows, List.getD_eq_getElem?_getD, transpEnc_getElem? hcol hrow,
        Option.getD_some, Nat.mul_comm, Nat.div_add_mod]
    rw [transpGrid_getElem? (by rwa [hrows]), hcell, ← padGrid_getD (m := key.length),
      List.getD_eq_getElem _ _ (by rwa [padGrid_length hpos]),
      List.getElem?_eq_getElem (by rwa [padGrid_length hpos])]
  · rw [List.getElem?_eq_none (by rw [transpGrid_length, hrows]; omega),
      List.getElem?_eq_none (by rw [padGrid_length hpos]; omega)]

/-- Decryption after encryption drops the spaces and the fillers of the text (44_classical_1.md R249). -/
theorem transpDec_transpEnc (hkey : key ≠ []) :
    transpDec fill (transpEnc fill text key) key = text.filter fun c => c != spaceCell && c != fill := by
  rw [transpDec_eq, transpGrid_transpEnc hkey, padGrid_filter, stripSpaces, List.filter_filter]
  exact List.filter_congr fun c _ => Bool.and_comm _ _

end

/-! The commands (44_classical_1.md R247, R248) -/

section
variable {s : State}

theorem exec_transpE (hkey : s.mem.tkey ≠ [])
    (hcap : ceilDiv (stripSpaces s.mem.tin).length s.mem.tkey.length * s.mem.tkey.length ≤ s.cfg.bufCap) :
    exec .transpE s = .next ((Effect.cells .tout (transpEnc s.cfg.fillT s.mem.tin s.mem.tkey)).after s) :=
  (if_neg (List.length_eq_zero_iff.not.2 hkey)).trans (if_neg (not_lt.2 hcap))

theorem exec_transpE_contract (hkey : s.mem.tkey = []) : exec .transpE s = .next (failedState .tout 8 s) :=
  guard_failed (List.length_eq_zero_iff.2 hkey)

theorem exec_transpE_cap (hkey : s.mem.tkey ≠ [])
    (hcap : s.cfg.bufCap < ceilDiv (stripSpaces s.mem.tin).length s.mem.tkey.length * s.mem.tkey.length) :
    exec .transpE s = .next (failedState .tout 9 s) :=
  (if_neg (List.length_eq_zero_iff.not.2 hkey)).trans (guard_failed hcap)

theorem exec_transpD (hkey : s.mem.tkey ≠ []) :
    exec .transpD s = .next ((Effect.cells .tout (transpDec s.cfg.fillT s.mem.tin s.mem.tkey)).after s) :=
  if_neg (List.length_eq_zero_iff.not.2 hkey)

theorem exec_transpD_contract (hkey : s.mem.tkey = []) : exec .transpD s = .next (failedState .tout 8 s) :=
  guard_failed (List.length_eq_zero_iff.2 hkey)

/-- TRANSP.D gives back what TRANSP.E made under the same key, without spaces and fillers (44_classical_1.md R249). -/
theorem exec_transpD_undoes {text : List Cell} (hkey : s.mem.tkey ≠ [])
    (htin : s.mem.tin = transpEnc s.cfg.fillT text s.mem.tkey) :
    exec .transpD s =
      .next ((Effect.cells .tout (text.filter fun c => c != spaceCell && c != s.cfg.fillT)).after s) := by
  rw [exec_transpD hkey, htin, transpDec_transpEnc hkey]

end

/-- Settles O26: the cells are read off the padded grid, column by column. -/
theorem transposeReadsColumnsInKeyOrder : Obligations.TransposeReadsColumnsInKeyOrder := by
  refine ⟨rfl, fun s text rows htext hrows => ?_⟩
  obtain rfl : text = stripSpaces s.mem.tin := htext
  obtain rfl : rows = ceilDiv (stripSpaces s.mem.tin).length s.mem.tkey.length := hrows
  exact ⟨fun hkey hcap => ⟨_, exec_transpE hkey hcap, transpEnc_length _ _ _,
      fun _ _ hk hr => transpEnc_getElem? (colorder_getElem? hk) hr⟩,
    exec_transpE_contract, exec_transpE_cap⟩

/-- Settles O27: the grid is the one decryption fills. -/
theorem transposeDecryptFillsColumns : Obligations.TransposeDecryptFillsColumns := by
  refine ⟨rfl, fun s rows hrows => ⟨fun hkey => ?result, exec_transpD_contract⟩⟩
  obtain rfl : rows = ceilDiv s.mem.tin.length s.mem.tkey.length := hrows
  refine ⟨transpGrid s.cfg.fillT s.mem.tin s.mem.tkey, transpGrid_length, fun k r hk hr => ?_,
    transpDec_length_le _ _ _, exec_transpD hkey⟩
  have hcell : r * s.mem.tkey.length + (colorder s.mem.tkey).getD k 0 <
      ceilDiv s.mem.tin.length s.mem.tkey.length * s.mem.tkey.length := by
    calc r * s.mem.tkey.length + (colorder s.mem.tkey).getD k 0
      _ < (r + 1) * s.mem.tkey.length := by rw [Nat.succ_mul]; exact Nat.add_lt_add_left (colorder_getD_lt hk) _
      _ ≤ ceilDiv s.mem.tin.length s.mem.tkey.length * s.mem.tkey.length := Nat.mul_le_mul_right _ hr
  rw [transpGrid_getElem? hcell, transpGridCell_mul_add hk]

/-- Settles O28: TRANSP.E leaves TKEY, so TRANSP.D fills the grid that was read. -/
theorem transposeRoundTripDropsSpacesAndFiller : Obligations.TransposeRoundTripDropsSpacesAndFiller := by
  intro s hkey hcap
  obtain ⟨t, hrun, htout, hstatus⟩ :=
    runCommands_textRoundTrip (exec_transpE hkey hcap) (exec_transpD_undoes hkey rfl)
  refine ⟨t, hrun, hstatus, htout, fun hplain => htout.trans (List.filter_eq_self.2 fun c hc => ?_)⟩
  obtain ⟨hspace, hfill⟩ := hplain c hc
  exact Bool.and_eq_true_iff.2 ⟨bne_iff_ne.2 hspace, bne_iff_ne.2 hfill⟩

end Sys2Proof.Machine
end

section
/-! PROOFS. FRACT (spec/44_classical_1.md R251 to R255): where a letter stands in the square, what decryption does with
the cells at the front of a text, and the round trip. -/

namespace Sys2Proof.Machine

-- Elaborating many proofs at once exhausts the memory limit of the check, as in the model's own tests.
set_option Elab.async false

/-! The square (44_classical_1.md R251) -/

/-- The place of a letter in the square, by its index: J shares I's, and the later letters stand one place earlier. -/
theorem gridPos_eq : ∀ {i : Nat}, i < 26 → gridPos i = if i < 9 then i else i - 1 := by decide

theorem gridPos_lt : ∀ {i : Nat}, i < 26 → gridPos i < 25 := by decide

/-- The letter at a place of the square, which has no J. -/
theorem grid5_getD : ∀ {p : Nat}, p < 25 → grid5.getD p 0 = if p < 9 then p else p + 1 := by decide

/-- The letter at a letter's place is the letter itself, J becoming I. -/
theorem grid5_getD_gridPos : ∀ {i : Nat}, i < 26 → grid5.getD (gridPos i) 0 = if i = 9 then 8 else i := by decide

/-! Coordinate digits (44_classical_1.md R252) -/

/-- The digit of a coordinate 0 to 4. -/
def coordDigit (r : Nat) : Cell := BitVec.ofNat 32 (0x31 + r)

theorem coordDigit_toNat {r : Nat} (hr : r < 5) : (coordDigit r).toNat = 0x31 + r := by
  rw [coordDigit, BitVec.toNat_ofNat]; omega

theorem isCoord_iff {c : Cell} : isCoord c = true ↔ 0x31 ≤ c.toNat ∧ c.toNat ≤ 0x35 := by
  simp [isCoord]

theorem isCoord_coordDigit {r : Nat} (hr : r < 5) : isCoord (coordDigit r) = true := by
  rw [isCoord_iff, coordDigit_toNat hr]; omega

theorem gridLetter_coordDigit {r q : Nat} (hr : r < 5) (hq : q < 5) :
    gridLetter (coordDigit r) (coordDigit q) = upc (grid5.getD (5 * r + q) 0) := by
  rw [gridLetter, coordDigit_toNat hr, coordDigit_toNat hq, Nat.add_sub_cancel_left, Nat.add_sub_cancel_left,
    Nat.mul_comm]

/-! Decryption at the front of a text (44_classical_1.md R252) -/

/-- Two coordinate digits become the letter at their place. -/
theorem fractDec_coordDigits {r q : Nat} (hr : r < 5) (hq : q < 5) (rest : List Cell) :
    fractDec (coordDigit r :: coordDigit q :: rest) = upc (grid5.getD (5 * r + q) 0) :: fractDec rest := by
  rw [fractDec, if_pos (by rw [isCoord_coordDigit hr, isCoord_coordDigit hq]; rfl), gridLetter_coordDigit hr hq]

/-- Where the two cells are not both digits, the first passes through. -/
theorem fractDec_pass {c d : Cell} (h : (isCoord c && isCoord d) = false) (rest : List Cell) :
    fractDec (c :: d :: rest) = c :: fractDec (d :: rest) := by
  rw [fractDec, h, if_neg Bool.false_ne_true]

/-- A cell that is no digit passes through whatever follows. -/
theorem fractDec_cons_other {c : Cell} (hc : isCoord c = false) (rest : List Cell) :
    fractDec (c :: rest) = c :: fractDec rest := by
  cases rest with
  | nil => rfl
  | cons d rest => exact fractDec_pass (by rw [hc, Bool.false_and]) rest

/-! Encryption (44_classical_1.md R252) -/

theorem fractEnc_cons_letter {c : Cell} (hc : islet c = true) (cs : List Cell) :
    fractEnc (c :: cs) =
      coordDigit (gridPos (idx c) / 5) :: coordDigit (gridPos (idx c) % 5) :: fractEnc cs := by
  rw [fractEnc, List.flatMap_cons, if_pos hc]
  rfl

theorem fractEnc_cons_other {c : Cell} (hc : islet c = false) (cs : List Cell) :
    fractEnc (c :: cs) = c :: fractEnc cs := by
  rw [fractEnc, List.flatMap_cons, if_neg (by simp [hc])]
  rfl

/-- A cell's upper-case letter, J becoming I; another cell unchanged (44_classical_1.md R255). -/
def foldLetter (c : Cell) : Cell := if islet c then upc (if idx c = 9 then 8 else idx c) else c

/-- Decryption after encryption folds the letters of a text without digits '1' to '5' (44_classical_1.md R255). -/
theorem fractDec_fractEnc {text : List Cell} (h : ∀ c ∈ text, isCoord c = false) :
    fractDec (fractEnc text) = text.map foldLetter := by
  induction text with
  | nil => rfl
  | cons c cs ih =>
    obtain ⟨hc, hcs⟩ := List.forall_mem_cons.1 h
    rw [List.map_cons, foldLetter, ← ih hcs]
    cases hlet : islet c with
    | true =>
      have hpos := gridPos_lt (idx_lt hlet)
      rw [fractEnc_cons_letter hlet, fractDec_coordDigits (by omega) (by omega), Nat.div_add_mod,
        grid5_getD_gridPos (idx_lt hlet), if_pos rfl]
    | false => rw [fractEnc_cons_other hlet, fractDec_cons_other hc, if_neg Bool.false_ne_true]

/-! The commands (44_classical_1.md R253, R254) -/

section
variable {s : State}

theorem exec_fractE (hcap : s.mem.tin.length + s.mem.tin.countP islet ≤ s.cfg.bufCap) :
    exec .fractE s = .next ((Effect.cells .tout (fractEnc s.mem.tin)).after s) := if_neg (not_lt.2 hcap)

theorem exec_fractE_cap (hcap : s.cfg.bufCap < s.mem.tin.length + s.mem.tin.countP islet) :
    exec .fractE s = .next (failedState .tout 9 s) := guard_failed hcap

theorem exec_fractD (s : State) : exec .fractD s = .next ((Effect.cells .tout (fractDec s.mem.tin)).after s) := rfl

/-- FRACT.D folds the letters of what FRACT.E made from a text without digits '1' to '5' (44_classical_1.md R255). -/
theorem exec_fractD_undoes {text : List Cell} (h : ∀ c ∈ text, isCoord c = false) (htin : s.mem.tin = fractEnc text) :
    exec .fractD s = .next ((Effect.cells .tout (text.map foldLetter)).after s) := by
  rw [exec_fractD, htin, fractDec_fractEnc h]

end

/-- The digits of FRACT.E by the letter's index, without the square. -/
theorem fractEnc_eq_flatMap (text : List Cell) :
    fractEnc text = text.flatMap fun c =>
      if islet c then
        [BitVec.ofNat 32 (0x31 + (if idx c < 9 then idx c else idx c - 1) / 5),
         BitVec.ofNat 32 (0x31 + (if idx c < 9 then idx c else idx c - 1) % 5)]
      else [c] := by
  refine List.flatMap_congr fun c _ => ?_
  split
  case isTrue hc => rw [gridPos_eq (idx_lt hc)]
  case isFalse => rfl

/-- Settles O29: the square by indices, and the front of a text case by case. -/
theorem fractionationUsesTheSquare : Obligations.FractionationUsesTheSquare := by
  refine ⟨rfl, rfl, fun s => ⟨fun hcap => ?enc, exec_fractE_cap, exec_fractD s, fractDec_length_le _⟩, rfl,
    fun _ => rfl, fun r q hr hq rest => ?digits, fun c d rest h => ?pass⟩
  case enc =>
    have hexec := exec_fractE hcap
    rw [fractEnc_eq_flatMap, after_cells_tout] at hexec
    exact hexec
  case digits =>
    rw [← grid5_getD (by omega)]
    exact fractDec_coordDigits hr hq rest
  case pass =>
    refine fractDec_pass (Bool.eq_false_iff.2 fun hboth => h ?_) rest
    obtain ⟨hc, hd⟩ := Bool.and_eq_true_iff.1 hboth
    exact ⟨isCoord_iff.1 hc, isCoord_iff.1 hd⟩

/-- Settles O30: each letter's two digits are read back as one letter, and no other cell is a digit. -/
theorem fractionationRoundTripFoldsCase : Obligations.FractionationRoundTripFoldsCase := by
  intro s hdigits hcap
  have hother : ∀ c ∈ s.mem.tin, isCoord c = false := fun c hc =>
    Bool.eq_false_iff.2 fun h => hdigits c hc (isCoord_iff.1 h)
  obtain ⟨t, hrun, htout, hstatus⟩ :=
    runCommands_textRoundTrip (exec_fractE hcap) (exec_fractD_undoes hother rfl)
  exact ⟨t, hrun, hstatus, htout⟩

end Sys2Proof.Machine
end

section
/-! PROOFS. PICTO and PASS (spec/45_classical_2.md R270 to R274, R296): what each direction does with an upper-case
letter, with a symbol and with any other cell, and which texts a round trip returns. -/

namespace Sys2Proof.Machine

-- Elaborating many proofs at once exhausts the memory limit of the check, as in the model's own tests.
set_option Elab.async false

theorem isup_iff {c : Cell} : isup c = true ↔ 0x41 ≤ c.toNat ∧ c.toNat ≤ 0x5A := by simp [isup]

/-- An upper-case letter's index counts from 'A' (00_scope.md R13). -/
theorem idx_of_isup {c : Cell} (hc : isup c = true) : idx c = c.toNat - 0x41 := if_pos hc

/-- An upper-case letter is the one at its index. -/
theorem upc_idx {c : Cell} (hc : isup c = true) : upc (idx c) = c := by
  have hrange := isup_iff.1 hc
  rw [upc, idx_of_isup hc, Nat.add_sub_cancel' hrange.1, BitVec.ofNat_toNat, BitVec.setWidth_eq]

/-- A legal symbol table: 26 symbols, no two equal and none an upper-case letter (R270). -/
structure LegalSymbols (picto : List Cell) : Prop where
  length_eq : picto.length = 26
  nodup : picto.Nodup
  not_isup : ∀ c ∈ picto, ¬ isup c = true

theorem Config.legalSymbols {cfg : Config} (h : cfg.pictoWellFormed = true) : LegalSymbols cfg.picto := by
  obtain ⟨⟨hlength, hnodup⟩, hupper⟩ : (cfg.picto.length = 26 ∧ cfg.picto.Nodup) ∧ _ := by
    simpa only [Config.pictoWellFormed, Bool.and_eq_true, decide_eq_true_eq] using h
  refine ⟨hlength, hnodup, fun c hc hup => ?_⟩
  have hno := List.all_eq_true.1 hupper c hc
  rw [isup] at hup
  rw [hup] at hno
  cases hno

/-! One cell (R271) -/

section
variable {picto : List Cell} {c : Cell} {k : Nat} (h : LegalSymbols picto)

theorem pictoEncCell_of_not_isup (hc : ¬ isup c = true) : pictoEncCell picto c = c := if_neg hc

theorem pictoDecCell_of_not_mem (hc : c ∉ picto) : pictoDecCell picto c = c := if_neg hc

include h

/-- Each upper-case letter has its symbol. -/
theorem LegalSymbols.getElem?_idx (hc : isup c = true) : picto[idx c]? = some (pictoEncCell picto c) := by
  have hidx : idx c < picto.length := by
    rw [h.length_eq]; exact idx_lt (by simp [islet, hc])
  rw [pictoEncCell, if_pos hc, List.getD_eq_getElem _ _ hidx, List.getElem?_eq_getElem hidx]

theorem LegalSymbols.pictoEncCell_mem (hc : isup c = true) : pictoEncCell picto c ∈ picto :=
  List.mem_of_getElem? (h.getElem?_idx hc)

/-- A symbol becomes the letter at its place, which is unique. -/
theorem LegalSymbols.pictoDecCell_symbol (hk : picto[k]? = some c) : pictoDecCell picto c = upc k := by
  obtain ⟨hlt, rfl⟩ := List.getElem?_eq_some_iff.1 hk
  rw [pictoDecCell, if_pos (List.getElem_mem hlt), h.nodup.idxOf_getElem k hlt]

/-- A symbol becomes an upper-case letter. -/
theorem LegalSymbols.isup_pictoDecCell (hc : c ∈ picto) : isup (pictoDecCell picto c) = true := by
  obtain ⟨k, hk⟩ := List.mem_iff_getElem?.1 hc
  have hlt := (List.getElem?_eq_some_iff.1 hk).1
  rw [h.pictoDecCell_symbol hk]
  exact isup_upc (h.length_eq ▸ hlt)

/-- The symbol of an upper-case letter becomes the letter again. -/
theorem LegalSymbols.pictoDecCell_pictoEncCell_isup (hc : isup c = true) :
    pictoDecCell picto (pictoEncCell picto c) = c := by
  rw [h.pictoDecCell_symbol (h.getElem?_idx hc), upc_idx hc]

/-- The letter of a symbol becomes the symbol again. -/
theorem LegalSymbols.pictoEncCell_pictoDecCell_symbol (hc : c ∈ picto) :
    pictoEncCell picto (pictoDecCell picto c) = c := by
  obtain ⟨k, hk⟩ := List.mem_iff_getElem?.1 hc
  have hlt := (List.getElem?_eq_some_iff.1 hk).1
  have henc := h.getElem?_idx (h.isup_pictoDecCell hc)
  rw [h.pictoDecCell_symbol hk, idx_upc (h.length_eq ▸ hlt), hk] at henc
  rw [h.pictoDecCell_symbol hk]
  exact (Option.some.inj henc).symm

/-- Encryption and decryption return exactly the cells that are no symbol (R274). -/
theorem LegalSymbols.pictoDecCell_pictoEncCell_eq_iff :
    pictoDecCell picto (pictoEncCell picto c) = c ↔ c ∉ picto := by
  constructor
  · intro hback hc
    have hno := h.not_isup c hc
    rw [pictoEncCell_of_not_isup hno] at hback
    exact hno (hback ▸ h.isup_pictoDecCell hc)
  · intro hc
    by_cases hup : isup c = true
    · exact h.pictoDecCell_pictoEncCell_isup hup
    · rw [pictoEncCell_of_not_isup hup, pictoDecCell_of_not_mem hc]

/-- Decryption and encryption return exactly the cells that are no upper-case letter (R274). -/
theorem LegalSymbols.pictoEncCell_pictoDecCell_eq_iff :
    pictoEncCell picto (pictoDecCell picto c) = c ↔ ¬ isup c = true := by
  constructor
  · intro hback hup
    rw [pictoDecCell_of_not_mem fun hc => h.not_isup c hc hup] at hback
    exact h.not_isup c (hback ▸ h.pictoEncCell_mem hup) hup
  · intro hup
    by_cases hc : c ∈ picto
    · exact h.pictoEncCell_pictoDecCell_symbol hc
    · rw [pictoDecCell_of_not_mem hc, pictoEncCell_of_not_isup hup]

end

/-- A text changed cell by cell comes back exactly when each of its cells does. -/
theorem map_eq_self_iff {f : Cell → Cell} {text : List Cell} : text.map f = text ↔ ∀ c ∈ text, f c = c := by
  simpa using List.map_inj_left (l := text) (f := f) (g := id)

theorem getElem?_map_of_getElem? {f : Cell → Cell} {text : List Cell} {i : Nat} {c : Cell} (hi : text[i]? = some c) :
    (text.map f)[i]? = some (f c) := by
  rw [List.getElem?_map, hi, Option.map_some]

/-! The commands (R272, R273, R296) -/

@[simp] theorem movedText_cfg (r : List Cell) (s : State) : (movedText r s).cfg = s.cfg := rfl

theorem exec_pictoE (s : State) :
    exec .pictoE s = .next ((Effect.cells .tout (s.mem.tin.map (pictoEncCell s.cfg.picto))).after s) := rfl

theorem exec_pictoD (s : State) :
    exec .pictoD s = .next ((Effect.cells .tout (s.mem.tin.map (pictoDecCell s.cfg.picto))).after s) := rfl

theorem exec_pass (dir : BitVec 1) (s : State) :
    exec (.pass dir) s = .next ((Effect.cells .tout s.mem.tin).after s) := rfl

/-- Settles O31: both directions cell by cell, from the table's being legal. -/
theorem pictogramsAndPassThrough : Obligations.PictogramsAndPassThrough := by
  refine ⟨rfl, rfl, rfl, rfl, fun s dir => ⟨exec_pass dir s, fun hcfg => ?_⟩⟩
  have hlegal := Config.legalSymbols hcfg
  refine ⟨⟨_, exec_pictoE s, List.length_map _, fun i c hi => ?enc⟩,
    ⟨_, exec_pictoD s, List.length_map _, fun i c hi hc => ?other, fun i c k hi hk => ?symbol⟩⟩
  case enc =>
    rw [getElem?_map_of_getElem? hi]
    split
    case isTrue hup =>
      rw [← idx_of_isup (isup_iff.2 hup), hlegal.getElem?_idx (isup_iff.2 hup)]
    case isFalse hup => rw [pictoEncCell_of_not_isup (isup_iff.not.2 hup)]
  case other => rw [getElem?_map_of_getElem? hi, pictoDecCell_of_not_mem hc]
  case symbol =>
    rw [getElem?_map_of_getElem? hi, hlegal.pictoDecCell_symbol hk]
    rfl

/-- Settles O32: the table stays, so each cell goes through both directions, and the text comes back where all its
cells do. -/
theorem pictogramsRoundTrip : Obligations.PictogramsRoundTrip := by
  intro s hcfg
  have hlegal := Config.legalSymbols hcfg
  constructor
  case left =>
    obtain ⟨t, hrun, htout, hstatus⟩ := runCommands_textRoundTrip (exec_pictoE s) (exec_pictoD _)
    rw [movedText_tin, movedText_cfg, List.map_map] at htout
    refine ⟨t, hrun, hstatus, ?_, fun i c k hi hk => ?_⟩
    · rw [htout, map_eq_self_iff]
      exact forall₂_congr fun c _ => hlegal.pictoDecCell_pictoEncCell_eq_iff
    · have hno := hlegal.not_isup c (List.mem_of_getElem? hk)
      rw [htout, getElem?_map_of_getElem? hi, Function.comp_apply, pictoEncCell_of_not_isup hno,
        hlegal.pictoDecCell_symbol hk]
      rfl
  case right =>
    obtain ⟨t, hrun, htout, hstatus⟩ := runCommands_textRoundTrip (exec_pictoD s) (exec_pictoE _)
    rw [movedText_tin, movedText_cfg, List.map_map] at htout
    refine ⟨t, hrun, hstatus, ?_⟩
    rw [htout, map_eq_self_iff]
    exact forall₂_congr fun c _ => hlegal.pictoEncCell_pictoDecCell_eq_iff.trans isup_iff.not

end Sys2Proof.Machine
end

section
/-! SUPPORT. Arithmetic modulo 26 (spec/45_classical_2.md R277, R291): the floor modulus of a signed value and the
inverse that `inv26` searches for; and the element of a list at a place inside it. -/

namespace Sys2Proof.Machine

-- Elaborating many proofs at once exhausts the memory limit of the check, as in the model's own tests.
set_option Elab.async false

/-! Elements of a list -/

section
variable {α : Type} {l : List α} {i : Nat} {a d : α}

theorem getElem?_eq_some_getD (d : α) (hi : i < l.length) : l[i]? = some (l.getD i d) := by
  rw [List.getD_eq_getElem _ _ hi, List.getElem?_eq_getElem hi]

theorem getD_of_getElem? (h : l[i]? = some a) : l.getD i d = a := by
  rw [List.getD_eq_getElem?_getD, h, Option.getD_some]

end

/-! Arithmetic modulo 26 -/

/-- The floor modulus as an integer is the integers' own remainder. -/
theorem floorMod26_cast (a : Int) : (floorMod26 a : Int) = a % 26 :=
  Int.toNat_of_nonneg (Int.emod_nonneg a (by decide))

/-- A signed value and its floor modulus have the same common divisors with 26. -/
theorem coprime_floorMod26_iff (a : Int) : Nat.Coprime (floorMod26 a) 26 ↔ Int.gcd a 26 = 1 := by
  rw [← Int.gcd_emod, ← floorMod26_cast]
  exact Iff.rfl

/-- What `inv26` finds is an inverse in 1 to 25 (R277). -/
theorem inv26_spec {v n : Nat} (h : inv26 v = some n) : 1 ≤ n ∧ n ≤ 25 ∧ v * n % 26 = 1 := by
  have hrange := List.mem_range'_1.1 (List.mem_of_find?_eq_some h)
  have hinv : v * n % 26 = 1 := by simpa using List.find?_some h
  exact ⟨hrange.1, by omega, hinv⟩

/-- `inv26` finds an inverse exactly where the value is coprime to 26 (R277). -/
theorem inv26_exists_iff (v : Nat) : (∃ n, inv26 v = some n) ↔ Nat.Coprime v 26 := by
  constructor
  · rintro ⟨n, hn⟩
    obtain ⟨-, -, hinv⟩ := inv26_spec hn
    exact Nat.coprime_of_mul_modEq_one n hinv
  · intro hv
    obtain ⟨m, hm, hinv⟩ := Nat.exists_mul_mod_eq_one_of_coprime hv (by decide)
    have hpos : m ≠ 0 := fun h0 => by simp [h0] at hinv
    refine Option.isSome_iff_exists.1 (List.find?_isSome.2 ⟨m, List.mem_range'_1.2 ⟨by omega, by omega⟩, ?_⟩)
    simpa using hinv

theorem inv26_eq_none {v : Nat} (h : ¬ Nat.Coprime v 26) : inv26 v = none :=
  Option.eq_none_iff_forall_ne_some.2 fun n hn => h ((inv26_exists_iff v).1 ⟨n, hn⟩)

end Sys2Proof.Machine
end

section
/-! PROOFS. HILL (spec/45_classical_2.md R276 to R281): the indices of a text in pairs, a matrix applied to each pair,
the inverse matrix, and the two commands undoing each other. -/

namespace Sys2Proof.Machine

-- Elaborating many proofs at once exhausts the memory limit of the check, as in the model's own tests.
set_option Elab.async false

/-! Indices (R278) -/

theorem islet_iff {c : Cell} :
    islet c = true ↔ (0x41 ≤ c.toNat ∧ c.toNat ≤ 0x5A) ∨ (0x61 ≤ c.toNat ∧ c.toNat ≤ 0x7A) := by
  simp [islet, isup, islo]

/-- Which alphabet a letter belongs to shows in its being at most 'Z' (00_scope.md R13). -/
theorem idx_of_islet {c : Cell} (hc : islet c = true) :
    idx c = if c.toNat ≤ 0x5A then c.toNat - 0x41 else c.toNat - 0x61 := by
  have hup : isup c = true ↔ c.toNat ≤ 0x5A := by
    rw [isup_iff]
    have hrange := islet_iff.1 hc
    omega
  simp only [idx, hup]

/-- What the matrix is applied to: an even number of letter indices. -/
structure Paired (v : List Nat) : Prop where
  even : v.length % 2 = 0
  lt : ∀ i ∈ v, i < 26

theorem Paired.getD_lt {v : List Nat} (h : Paired v) {i : Nat} (hi : i < v.length) : v.getD i 0 < 26 :=
  h.lt _ (List.mem_of_getElem? (getElem?_eq_some_getD 0 hi))

theorem Paired.tail {x y : Nat} {v : List Nat} (h : Paired (x :: y :: v)) : Paired v where
  even := by have heven := h.even; simp only [List.length_cons] at heven; omega
  lt i hi := h.lt i (List.mem_cons_of_mem x (List.mem_cons_of_mem y hi))

section
variable {fill : Nat} {text : List Cell} {v : List Nat}

theorem hillIndices_of_even (h : (text.filter islet).length % 2 = 0) :
    hillIndices fill text = (text.filter islet).map idx := by
  simp [hillIndices, h]

theorem hillIndices_paired (hfill : fill < 26) (text : List Cell) : Paired (hillIndices fill text) where
  even := by rw [hillIndices_length]; omega
  lt i hi := by
    have hletters : ∀ i ∈ (text.filter islet).map idx, i < 26 := by
      intro i hi
      obtain ⟨c, hc, rfl⟩ := List.mem_map.1 hi
      exact idx_lt (List.mem_filter.1 hc).2
    rw [hillIndices] at hi
    split at hi
    · obtain hi | hi := List.mem_append.1 hi
      · exact hletters i hi
      · rwa [List.mem_singleton.1 hi]
    · exact hletters i hi

/-- A text of upper-case letters, even in number, has just their indices. -/
theorem hillIndices_map_upc (hv : Paired v) : hillIndices fill (v.map upc) = v := by
  have hfilter : (v.map upc).filter islet = v.map upc := by
    refine List.filter_eq_self.2 fun c hc => ?_
    obtain ⟨i, hi, rfl⟩ := List.mem_map.1 hc
    exact islet_upc (hv.lt i hi)
  rw [hillIndices_of_even (by rw [hfilter, List.length_map, hv.even]), hfilter, List.map_map]
  exact (List.map_congr_left fun i hi => idx_upc (hv.lt i hi)).trans (List.map_id v)

/-- A text of upper-case letters, even in number, is spelled by its indices. -/
theorem map_upc_hillIndices (heven : text.length % 2 = 0) (hup : ∀ c ∈ text, isup c = true) :
    (hillIndices fill text).map upc = text := by
  have hfilter : text.filter islet = text := List.filter_eq_self.2 fun c hc => by simp [islet, hup c hc]
  rw [hillIndices_of_even (by rwa [hfilter]), hfilter, List.map_map]
  exact (List.map_congr_left fun c hc => upc_idx (hup c hc)).trans (List.map_id text)

end

/-! A matrix applied to pairs (R278) -/

/-- A row of a matrix times a column vector, modulo 26. -/
def row26 (a b x y : Nat) : Nat := (a * x + b * y) % 26

theorem row26_lt (a b x y : Nat) : row26 a b x y < 26 := Nat.mod_lt _ (by decide)

/-- The matrix applied to each pair of indices. -/
def hillMap (m : Matrix26) : List Nat → List Nat
  | x :: y :: rest => row26 m.m00 m.m01 x y :: row26 m.m10 m.m11 x y :: hillMap m rest
  | _ => []

theorem hillPairs_eq_map_upc (m : Matrix26) (v : List Nat) : hillPairs m v = (hillMap m v).map upc := by
  fun_induction hillMap m v with
  | case1 x y rest ih => rw [hillPairs, ih]; rfl
  | case2 v h => rw [hillPairs, List.map_nil]; exact h

theorem hillApply_eq_map_upc (fill : Nat) (text : List Cell) (m : Matrix26) :
    hillApply fill text m = (hillMap m (hillIndices fill text)).map upc := hillPairs_eq_map_upc m _

section
variable {m m' : Matrix26} {v : List Nat}

theorem hillMap_length (hv : Paired v) : (hillMap m v).length = v.length := by
  have hlength := hillPairs_length m v
  rw [hillPairs_eq_map_upc, List.length_map] at hlength
  have heven := hv.even
  omega

theorem hillMap_paired (hv : Paired v) : Paired (hillMap m v) where
  even := by rw [hillMap_length hv, hv.even]
  lt i hi := by
    clear hv
    fun_induction hillMap m v with
    | case1 x y rest ih =>
      obtain rfl | hi := List.mem_cons.1 hi
      · exact row26_lt _ _ _ _
      obtain rfl | hi := List.mem_cons.1 hi
      · exact row26_lt _ _ _ _
      · exact ih hi
    | case2 v h => cases hi

/-- The indices of pair j of the result: each row times pair j. -/
theorem hillMap_getD {j : Nat} (hj : 2 * j + 1 < v.length) :
    (hillMap m v).getD (2 * j) 0 = row26 m.m00 m.m01 (v.getD (2 * j) 0) (v.getD (2 * j + 1) 0) ∧
      (hillMap m v).getD (2 * j + 1) 0 = row26 m.m10 m.m11 (v.getD (2 * j) 0) (v.getD (2 * j + 1) 0) := by
  fun_induction hillMap m v generalizing j with
  | case1 x y rest ih =>
    cases j with
    | zero => exact ⟨rfl, rfl⟩
    | succ j =>
      simp only [List.length_cons] at hj
      exact ih (j := j) (by omega)
  | case2 v h =>
    match v, h with
    | [], _ => simp at hj
    | [_], _ => simp at hj
    | x :: y :: rest, h => exact absurd rfl (h x y rest)

/-- The first matrix gives back the pairs that the second was applied to. -/
def Matrix26.Undoes (m' m : Matrix26) : Prop :=
  ∀ x y, x < 26 → y < 26 →
    row26 m'.m00 m'.m01 (row26 m.m00 m.m01 x y) (row26 m.m10 m.m11 x y) = x ∧
      row26 m'.m10 m'.m11 (row26 m.m00 m.m01 x y) (row26 m.m10 m.m11 x y) = y

theorem hillMap_hillMap_cancel (h : m'.Undoes m) (hv : Paired v) : hillMap m' (hillMap m v) = v := by
  fun_induction hillMap m v with
  | case1 x y rest ih =>
    obtain ⟨hx, hy⟩ := h x y (hv.lt x (by simp)) (hv.lt y (by simp))
    rw [hillMap, hx, hy, ih hv.tail]
  | case2 v h =>
    match v, h, hv.even with
    | [], _, _ => rfl
    | x :: y :: rest, h, _ => exact absurd rfl (h x y rest)

/-- The matrix applied to the text that another made gives the indices of the first text. -/
theorem hillApply_hillApply {fill : Nat} (hfill : fill < 26) (h : m'.Undoes m) (text : List Cell) :
    hillApply fill (hillApply fill text m) m' = (hillIndices fill text).map upc := by
  have hpaired := hillIndices_paired hfill text
  rw [hillApply_eq_map_upc fill text, hillApply_eq_map_upc, hillIndices_map_upc (hillMap_paired hpaired),
    hillMap_hillMap_cancel h hpaired]

/-- An output cell is the letter of the index there. -/
theorem hillApply_getElem? {fill : Nat} {text : List Cell} {i : Nat} (hfill : fill < 26)
    (hi : i < (hillIndices fill text).length) :
    (hillApply fill text m)[i]? = some (upc ((hillMap m (hillIndices fill text)).getD i 0)) := by
  have hi' : i < (hillMap m (hillIndices fill text)).length := by
    rwa [hillMap_length (hillIndices_paired hfill text)]
  rw [hillApply_eq_map_upc, List.getElem?_map, getElem?_eq_some_getD 0 hi', Option.map_some]

theorem hillApply_length_eq (fill : Nat) (text : List Cell) (m : Matrix26) :
    (hillApply fill text m).length = (hillIndices fill text).length := by
  rw [hillApply_length, hillIndices_length]

end

/-! The inverse matrix (R277, R278), over the integers modulo 26 -/

theorem floorMod26_zmod (a : Int) : (floorMod26 a : ZMod 26) = a := by
  have hcast : ((floorMod26 a : Int) : ZMod 26) = (a % (26 : Nat) : Int) := by rw [floorMod26_cast]; rfl
  rwa [ZMod.intCast_mod, Int.cast_natCast] at hcast

theorem row26_zmod (a b x y : Nat) : (row26 a b x y : ZMod 26) = a * x + b * y := by
  rw [row26, ZMod.natCast_mod]
  push_cast
  rfl

/-- An index equal to another modulo 26 is that index. -/
theorem row26_eq_of_zmod {a b x y z : Nat} (hz : z < 26) (h : (a * x + b * y : ZMod 26) = z) :
    row26 a b x y = z := by
  have hmod := (ZMod.natCast_eq_natCast_iff' (row26 a b x y) z 26).1 ((row26_zmod a b x y).trans h)
  rwa [Nat.mod_eq_of_lt (row26_lt a b x y), Nat.mod_eq_of_lt hz] at hmod

/-- The adjugate times n (R278). -/
def adjugateTimes (m : Matrix26) (n : Nat) : Matrix26 where
  m00 := m.m11 * n % 26
  m01 := (26 - m.m01) * n % 26
  m10 := (26 - m.m10) * n % 26
  m11 := m.m00 * n % 26

theorem hillInverse_eq (m : Matrix26) : hillInverse m = (inv26 (det26 m)).map (adjugateTimes m) := by
  rw [hillInverse]
  cases inv26 (det26 m) <;> rfl

section
variable {m : Matrix26} {n : Nat}

theorem det26_zmod (m : Matrix26) : (det26 m : ZMod 26) = m.m00 * m.m11 - m.m01 * m.m10 := by
  rw [det26, floorMod26_zmod]
  push_cast
  rfl

theorem neg_mul_zmod {b : Nat} (hb : b < 26) : (((26 - b) * n % 26 : Nat) : ZMod 26) = -b * n := by
  rw [ZMod.natCast_mod, Nat.cast_mul, Nat.cast_sub hb.le, ZMod.natCast_self, zero_sub]

/-- The determinant's inverse, over the integers modulo 26. -/
theorem det_mul_zmod (h : inv26 (det26 m) = some n) :
    ((m.m00 * m.m11 - m.m01 * m.m10) * n : ZMod 26) = 1 := by
  obtain ⟨-, -, hinv⟩ := inv26_spec h
  have hcast := (ZMod.natCast_eq_natCast_iff' (det26 m * n) 1 26).2 hinv
  rwa [Nat.cast_mul, det26_zmod, Nat.cast_one] at hcast

/-- The inverse matrix undoes the matrix, and the matrix undoes its inverse. -/
theorem adjugateTimes_undoes (h01 : m.m01 < 26) (h10 : m.m10 < 26) (h : inv26 (det26 m) = some n) :
    (adjugateTimes m n).Undoes m ∧ m.Undoes (adjugateTimes m n) := by
  have hdet := det_mul_zmod h
  constructor
  · intro x y hx hy
    constructor
    · refine row26_eq_of_zmod hx ?_
      simp only [adjugateTimes, row26_zmod, neg_mul_zmod h01, ZMod.natCast_mod, Nat.cast_mul]
      linear_combination x * hdet
    · refine row26_eq_of_zmod hy ?_
      simp only [adjugateTimes, row26_zmod, neg_mul_zmod h10, ZMod.natCast_mod, Nat.cast_mul]
      linear_combination y * hdet
  · intro x y hx hy
    constructor
    · refine row26_eq_of_zmod hx ?_
      simp only [adjugateTimes, row26_zmod, neg_mul_zmod h01, neg_mul_zmod h10, ZMod.natCast_mod, Nat.cast_mul]
      linear_combination x * hdet
    · refine row26_eq_of_zmod hy ?_
      simp only [adjugateTimes, row26_zmod, neg_mul_zmod h01, neg_mul_zmod h10, ZMod.natCast_mod, Nat.cast_mul]
      linear_combination y * hdet

end

/-! The matrix of the signed registers (R276, R277) -/

section
variable {s : State}

/-- A reduced row gives what the signed row gives modulo 26. -/
theorem row26_param26 (a b : Word) (x y : Nat) :
    (row26 (param26 a) (param26 b) x y : Int) = (a.toInt * x + b.toInt * y) % 26 := by
  have ha : (param26 a : Int) = a.toInt % 26 := floorMod26_cast _
  have hb : (param26 b : Int) = b.toInt % 26 := floorMod26_cast _
  rw [row26]
  push_cast
  rw [ha, hb, Int.add_emod, Int.mul_emod, Int.emod_emod, ← Int.mul_emod, Int.mul_emod (_ % _), Int.emod_emod,
    ← Int.mul_emod, ← Int.add_emod]

/-- Reducing the entries first leaves the determinant modulo 26 (R277). -/
theorem det26_hillMatrix (s : State) : det26 s.hillMatrix = floorMod26 (hillDet s) := by
  have hcast : ∀ r : Word, (param26 r : Int) = r.toInt % 26 := fun r => floorMod26_cast _
  simp only [det26, floorMod26, State.hillMatrix, hillDet, hcast]
  rw [Int.sub_emod, ← Int.mul_emod, ← Int.mul_emod, ← Int.sub_emod]

/-- The matrix has an inverse exactly where the signed determinant is coprime to 26. -/
theorem exists_inv26_det (h : Int.gcd (hillDet s) 26 = 1) : ∃ n, inv26 (det26 s.hillMatrix) = some n := by
  rw [inv26_exists_iff, det26_hillMatrix]
  exact (coprime_floorMod26_iff _).2 h

theorem exists_hillInverse (h : Int.gcd (hillDet s) 26 = 1) :
    ∃ m, hillInverse s.hillMatrix = some m ∧ m.Undoes s.hillMatrix ∧ s.hillMatrix.Undoes m := by
  obtain ⟨n, hn⟩ := exists_inv26_det h
  exact ⟨_, by rw [hillInverse_eq, hn]; rfl, adjugateTimes_undoes (param26_lt _) (param26_lt _) hn⟩

theorem hillInverse_eq_none (h : Int.gcd (hillDet s) 26 ≠ 1) : hillInverse s.hillMatrix = none := by
  rw [hillInverse_eq, det26_hillMatrix, inv26_eq_none ((coprime_floorMod26_iff _).not.2 h), Option.map_none]

/-! The commands (R279, R280) -/

variable {m : Matrix26}

/-- The tail of both commands where the output fits. -/
theorem hillFinish_of_fits (m : Matrix26) (hcap : (hillIndices s.cfg.fillH s.mem.tin).length ≤ s.cfg.bufCap) :
    hillFinish m s = .next ((Effect.cells .tout (hillApply s.cfg.fillH s.mem.tin m)).after s) := by
  rw [hillIndices_length] at hcap
  exact if_neg (not_lt.2 hcap)

theorem hillFinish_cap (m : Matrix26) (hcap : s.cfg.bufCap < (hillIndices s.cfg.fillH s.mem.tin).length) :
    hillFinish m s = .next (failedState .tout 9 s) := by
  rw [hillIndices_length] at hcap
  exact guard_failed hcap

theorem exec_hillE (hcap : (hillIndices s.cfg.fillH s.mem.tin).length ≤ s.cfg.bufCap) :
    exec .hillE s = .next ((Effect.cells .tout (hillApply s.cfg.fillH s.mem.tin s.hillMatrix)).after s) :=
  hillFinish_of_fits _ hcap

theorem exec_hillE_cap (hcap : s.cfg.bufCap < (hillIndices s.cfg.fillH s.mem.tin).length) :
    exec .hillE s = .next (failedState .tout 9 s) := hillFinish_cap _ hcap

theorem exec_hillD_noinverse (h : hillInverse s.hillMatrix = none) : exec .hillD s = .next (failedState .tout 7 s) := by
  change execHillD s = _
  rw [execHillD, h]
  exact (raise_next .tout .noinverse).2 rfl

theorem exec_hillD_eq (hm : hillInverse s.hillMatrix = some m) : exec .hillD s = hillFinish m s := by
  change execHillD s = _
  rw [execHillD, hm]

theorem exec_hillD (hm : hillInverse s.hillMatrix = some m)
    (hcap : (hillIndices s.cfg.fillH s.mem.tin).length ≤ s.cfg.bufCap) :
    exec .hillD s = .next ((Effect.cells .tout (hillApply s.cfg.fillH s.mem.tin m)).after s) :=
  (exec_hillD_eq hm).trans (hillFinish_of_fits m hcap)

theorem exec_hillD_cap (hm : hillInverse s.hillMatrix = some m)
    (hcap : s.cfg.bufCap < (hillIndices s.cfg.fillH s.mem.tin).length) :
    exec .hillD s = .next (failedState .tout 9 s) := (exec_hillD_eq hm).trans (hillFinish_cap m hcap)

/-- The tail of a command on the text that another matrix made, which is as long as the indices it came from. -/
theorem hillFinish_undoes {m' : Matrix26} {text : List Cell} (h : m'.Undoes m)
    (hcap : (hillIndices s.cfg.fillH text).length ≤ s.cfg.bufCap)
    (htin : s.mem.tin = hillApply s.cfg.fillH text m) :
    hillFinish m' s = .next ((Effect.cells .tout ((hillIndices s.cfg.fillH text).map upc)).after s) := by
  have hpaired := hillIndices_paired s.cfg.fillH.isLt text
  have hlength : (hillIndices s.cfg.fillH s.mem.tin).length = (hillIndices s.cfg.fillH text).length := by
    rw [htin, hillApply_eq_map_upc, hillIndices_map_upc (hillMap_paired hpaired), hillMap_length hpaired]
  rw [hillFinish_of_fits m' (hlength.trans_le hcap), htin, hillApply_hillApply s.cfg.fillH.isLt h]

/-- HILL.D gives back the letters of what HILL.E made under the same matrix (R281). -/
theorem exec_hillD_undoes {text : List Cell} (hm : hillInverse s.hillMatrix = some m)
    (hcap : (hillIndices s.cfg.fillH text).length ≤ s.cfg.bufCap) (hundoes : m.Undoes s.hillMatrix)
    (htin : s.mem.tin = hillApply s.cfg.fillH text s.hillMatrix) :
    exec .hillD s = .next ((Effect.cells .tout ((hillIndices s.cfg.fillH text).map upc)).after s) :=
  (exec_hillD_eq hm).trans (hillFinish_undoes hundoes hcap htin)

/-- HILL.E gives back the letters of what HILL.D made under the same matrix (R281). -/
theorem exec_hillE_undoes {text : List Cell} (hcap : (hillIndices s.cfg.fillH text).length ≤ s.cfg.bufCap)
    (hundoes : s.hillMatrix.Undoes m) (htin : s.mem.tin = hillApply s.cfg.fillH text m) :
    exec .hillE s = .next ((Effect.cells .tout ((hillIndices s.cfg.fillH text).map upc)).after s) :=
  hillFinish_undoes hundoes hcap htin

end

/-- Settles O33: each pair by the rows of the reduced matrix, and back by those of its inverse. -/
theorem hillMapsPairsByMatrix : Obligations.HillMapsPairsByMatrix := by
  refine ⟨rfl, rfl, fun c => islet_iff, fun c => idx_of_islet, fun s letters v hletters hv => ?_⟩
  subst hletters
  obtain rfl : v = hillIndices s.cfg.fillH s.mem.tin := hv
  have hfill := s.cfg.fillH.isLt
  have hpaired := hillIndices_paired hfill s.mem.tin
  refine ⟨fun hcap => ?enc, fun hgcd hcap => ?dec, exec_hillE_cap,
    fun hgcd => exec_hillD_noinverse (hillInverse_eq_none hgcd), fun hgcd hcap => ?cap⟩
  case enc =>
    refine ⟨_, exec_hillE hcap, hillApply_length_eq _ _ _, fun j hj => ?_⟩
    obtain ⟨hfirst, hsecond⟩ := hillMap_getD (m := s.hillMatrix) hj
    rw [hillApply_getElem? hfill (by omega), hillApply_getElem? hfill hj, hfirst, hsecond, ← row26_param26,
      ← row26_param26, Int.toNat_natCast, Int.toNat_natCast]
    exact ⟨rfl, rfl⟩
  case dec =>
    obtain ⟨m, hm, -, hundoes⟩ := exists_hillInverse hgcd
    refine ⟨_, exec_hillD hm hcap, hillApply_length_eq _ _ _, fun j hj => ?_⟩
    have hj' : 2 * j + 1 < (hillMap m (hillIndices s.cfg.fillH s.mem.tin)).length := by
      rwa [hillMap_length hpaired]
    obtain ⟨hfirst, hsecond⟩ := hillMap_getD (m := s.hillMatrix) hj'
    rw [hillMap_hillMap_cancel hundoes hpaired] at hfirst hsecond
    have hpreimages : Paired (hillMap m (hillIndices s.cfg.fillH s.mem.tin)) := hillMap_paired hpaired
    refine ⟨_, _, hpreimages.getD_lt (by omega), hpreimages.getD_lt hj', hillApply_getElem? hfill (by omega),
      hillApply_getElem? hfill hj, ?_, ?_⟩
    · rw [hfirst]; exact (row26_param26 _ _ _ _).symm
    · rw [hsecond]; exact (row26_param26 _ _ _ _).symm
  case cap =>
    obtain ⟨m, hm, -⟩ := exists_hillInverse hgcd
    exact exec_hillD_cap hm hcap

/-- Settles O34: HILL leaves the matrix, so the second command applies to the first one's pairs the matrix that undoes
the first one's. -/
theorem hillRoundTripKeepsLetters : Obligations.HillRoundTripKeepsLetters := by
  intro s letters v hletters hv hgcd hcap
  subst hletters
  obtain rfl : v = hillIndices s.cfg.fillH s.mem.tin := hv
  obtain ⟨m, hm, hback, hforth⟩ := exists_hillInverse hgcd
  have hexact : s.mem.tin.length % 2 = 0 → (∀ c ∈ s.mem.tin, 0x41 ≤ c.toNat ∧ c.toNat ≤ 0x5A) →
      (hillIndices s.cfg.fillH s.mem.tin).map upc = s.mem.tin := fun heven hup =>
    map_upc_hillIndices heven fun c hc => isup_iff.2 (hup c hc)
  constructor
  case left =>
    obtain ⟨t, hrun, htout, hstatus⟩ :=
      runCommands_textRoundTrip (exec_hillE hcap) (exec_hillD_undoes hm hcap hback rfl)
    exact ⟨t, hrun, hstatus, htout, fun heven hup => htout.trans (hexact heven hup)⟩
  case right =>
    obtain ⟨t, hrun, htout, hstatus⟩ :=
      runCommands_textRoundTrip (exec_hillD hm hcap) (exec_hillE_undoes hcap hforth rfl)
    exact ⟨t, hrun, hstatus, htout, fun heven hup => htout.trans (hexact heven hup)⟩

end Sys2Proof.Machine
end

section
/-! PROOFS. RAIL (spec/45_classical_2.md R283 to R287): the order in which the rails are read, where a position stands
in it, and the two directions as the text read in that order and put back. -/

namespace Sys2Proof.Machine

-- Elaborating many proofs at once exhausts the memory limit of the check, as in the model's own tests.
set_option Elab.async false

section
variable {n len p r : Nat}

/-! Rails (R283) -/

theorem mem_railPositions_iff : p ∈ railPositions n len r ↔ p < len ∧ railOf n p = r := by
  simp [railPositions]

/-- There are n rails. -/
theorem railOf_lt (hn : 2 ≤ n) (p : Nat) : railOf n p < n := by
  have hmod := Nat.mod_lt p (show 0 < 2 * (n - 1) by omega)
  rw [railOf]
  split
  · assumption
  · omega

/-- The first cells go down the rails, so no cell stands lower than its position. -/
theorem railOf_le (p : Nat) : railOf n p ≤ p := by
  have hmod := Nat.mod_le p (2 * (n - 1))
  rw [railOf]
  split
  · exact hmod
  · omega

/-! The order of reading (R284) -/

/-- The positions of a text of len cells, rail by rail. -/
def railOrder (n len : Nat) : List Nat := (List.range (min n len)).flatMap (railPositions n len)

theorem railEnc_eq (text : List Cell) (n : Nat) :
    railEnc text n = (railOrder n text.length).map fun p => text.getD p 0 := by
  rw [railOrder, List.map_flatMap]
  rfl

theorem railOrder_nodup (n len : Nat) : (railOrder n len).Nodup := railPositions_nodup n len _

theorem mem_railOrder_iff (hn : 2 ≤ n) : p ∈ railOrder n len ↔ p < len := by
  simp only [railOrder, List.mem_flatMap, List.mem_range, mem_railPositions_iff]
  constructor
  · rintro ⟨r, -, hp, -⟩
    exact hp
  · intro hp
    have hlt := railOf_lt hn p
    have hle := railOf_le (n := n) p
    exact ⟨railOf n p, by omega, hp, rfl⟩

/-- Every position is read once. -/
theorem railOrder_perm (hn : 2 ≤ n) (len : Nat) : (railOrder n len).Perm (List.range len) :=
  (List.perm_ext_iff_of_nodup (railOrder_nodup n len) List.nodup_range).2 fun _ =>
    (mem_railOrder_iff hn).trans List.mem_range.symm

theorem railOrder_length (hn : 2 ≤ n) (len : Nat) : (railOrder n len).length = len := by
  rw [(railOrder_perm hn len).length_eq, List.length_range]

/-- Position p is read before position q: an upper rail, or the same rail and earlier in the text. -/
def RailBefore (n p q : Nat) : Prop := railOf n p < railOf n q ∨ (railOf n p = railOf n q ∧ p < q)

theorem railOrder_pairwise (n len : Nat) : (railOrder n len).Pairwise (RailBefore n) := by
  refine List.pairwise_flatMap.2 ⟨fun r _ => ?sameRail, List.pairwise_lt_range.imp fun hlt p hp q hq => ?upperRail⟩
  case sameRail =>
    refine (List.pairwise_lt_range.filter _).imp_of_mem fun hp hq hlt => .inr ⟨?_, hlt⟩
    exact (mem_railPositions_iff.1 hp).2.trans (mem_railPositions_iff.1 hq).2.symm
  case upperRail =>
    refine .inl ?_
    rwa [(mem_railPositions_iff.1 hp).2, (mem_railPositions_iff.1 hq).2]

/-! Where a position stands in the order (R284) -/

/-- A range cut at one of its numbers. -/
theorem exists_range_eq_append_cons {a b : Nat} (h : a < b) : ∃ rest, List.range b = List.range a ++ a :: rest := by
  refine ⟨(List.range (b - (a + 1))).map (a + 1 + ·), ?_⟩
  rw [← List.singleton_append, ← List.append_assoc, ← List.range_succ, ← List.range_add]
  congr 1
  omega

/-- On its rail, a position comes after the rail's earlier positions. -/
theorem exists_railPositions_eq (hp : p < len) :
    ∃ rest, railPositions n len (railOf n p) = railPositions n p (railOf n p) ++ p :: rest := by
  obtain ⟨rest, hrest⟩ := exists_range_eq_append_cons hp
  exact ⟨_, by rw [railPositions, hrest, List.filter_append, List.filter_cons_of_pos (by simp)]; rfl⟩

/-- Position p stands at its index: the upper rails and its rail's earlier positions come before it. -/
theorem railOrder_getElem?_railIndex (hn : 2 ≤ n) (hp : p < len) :
    (railOrder n len)[railIndex n len p]? = some p := by
  have hrail : railOf n p < min n len := lt_min (railOf_lt hn p) ((railOf_le p).trans_lt hp)
  obtain ⟨lower, hlower⟩ := exists_range_eq_append_cons hrail
  obtain ⟨later, hlater⟩ := exists_railPositions_eq (n := n) hp
  have hbefore : railIndex n len p =
      ((List.range (railOf n p)).flatMap (railPositions n len) ++ railPositions n p (railOf n p)).length := by
    rw [railIndex, railStart, List.length_append, List.length_flatMap]
  have horder : railOrder n len =
      ((List.range (railOf n p)).flatMap (railPositions n len) ++ railPositions n p (railOf n p)) ++
        p :: (later ++ lower.flatMap (railPositions n len)) := by
    rw [railOrder, hlower, List.flatMap_append, List.flatMap_cons, hlater]
    simp only [List.append_assoc, List.cons_append]
  rw [horder, hbefore, List.getElem?_append_right le_rfl, Nat.sub_self, List.getElem?_cons_zero]

theorem railIndex_lt (hn : 2 ≤ n) (hp : p < len) : railIndex n len p < len := by
  have hlt := (List.getElem?_eq_some_iff.1 (railOrder_getElem?_railIndex hn hp)).1
  rwa [railOrder_length hn] at hlt

theorem railOrder_getElem? (hn : 2 ≤ n) {k : Nat} (hk : k < len) :
    (railOrder n len)[k]? = some ((railOrder n len).getD k 0) :=
  getElem?_eq_some_getD 0 (by rwa [railOrder_length hn])

theorem railOrder_getD_lt (hn : 2 ≤ n) {k : Nat} (hk : k < len) : (railOrder n len).getD k 0 < len :=
  (mem_railOrder_iff hn).1 (List.mem_of_getElem? (railOrder_getElem? hn hk))

/-- The index of the position read k-th is k. -/
theorem railIndex_railOrder_getD (hn : 2 ≤ n) {k : Nat} (hk : k < len) :
    railIndex n len ((railOrder n len).getD k 0) = k := by
  have hindex := railOrder_getElem?_railIndex hn (railOrder_getD_lt hn hk)
  rw [← railOrder_getElem? hn hk] at hindex
  have hlt := railIndex_lt hn (railOrder_getD_lt hn hk)
  exact (List.getElem?_inj (by rwa [railOrder_length hn]) (railOrder_nodup n len)).1 hindex

end

/-! The two directions cell by cell (R284) -/

section
variable {text : List Cell} {n : Nat} (hn : 2 ≤ n)

theorem railDec_getElem? {p : Nat} (hp : p < text.length) :
    (railDec text n)[p]? = some (text.getD (railIndex n text.length p) 0) := by
  simp [railDec, hp]

include hn

theorem railEnc_length : (railEnc text n).length = text.length := by
  rw [railEnc_eq, List.length_map, railOrder_length hn]

theorem railEnc_getElem? {k : Nat} (hk : k < text.length) :
    (railEnc text n)[k]? = some (text.getD ((railOrder n text.length).getD k 0) 0) := by
  rw [railEnc_eq, List.getElem?_map, railOrder_getElem? hn hk, Option.map_some]

/-- Decryption puts the k-th cell back at the position read k-th. -/
theorem railDec_getElem?_railOrder {k : Nat} (hk : k < text.length) :
    (railDec text n)[(railOrder n text.length).getD k 0]? = text[k]? := by
  rw [railDec_getElem? (railOrder_getD_lt hn hk), railIndex_railOrder_getD hn hk,
    ← getElem?_eq_some_getD 0 hk]

theorem railDec_railEnc : railDec (railEnc text n) n = text := by
  refine List.ext_getElem? fun p => ?_
  by_cases hp : p < text.length
  · have hread : (railOrder n text.length).getD (railIndex n text.length p) 0 = p :=
      getD_of_getElem? (railOrder_getElem?_railIndex hn hp)
    have hcell : (railEnc text n).getD (railIndex n text.length p) 0 = text.getD p 0 := by
      rw [getD_of_getElem? (railEnc_getElem? hn (railIndex_lt hn hp)), hread]
    rw [railDec_getElem? (by rwa [railEnc_length hn]), railEnc_length hn, hcell, ← getElem?_eq_some_getD 0 hp]
  · rw [List.getElem?_eq_none (by rw [railDec_length, railEnc_length hn]; omega),
      List.getElem?_eq_none (by omega)]

theorem railEnc_railDec : railEnc (railDec text n) n = text := by
  refine List.ext_getElem? fun k => ?_
  by_cases hk : k < text.length
  · have hcell := (railDec_getElem?_railOrder hn hk).trans (getElem?_eq_some_getD 0 hk)
    rw [railEnc_getElem? hn (by rwa [railDec_length]), railDec_length, getD_of_getElem? hcell,
      ← getElem?_eq_some_getD 0 hk]
  · rw [List.getElem?_eq_none (by rw [railEnc_length hn, railDec_length]; omega),
      List.getElem?_eq_none (by omega)]

end

/-! The commands (R285, R286) -/

section
variable {s : State} {n : Nat}

theorem exec_railE_copy (h : s.p0.toInt < 2) : exec .railE s = .next ((Effect.cells .tout s.mem.tin).after s) :=
  if_pos h

theorem exec_railD_copy (h : s.p0.toInt < 2) : exec .railD s = .next ((Effect.cells .tout s.mem.tin).after s) :=
  if_pos h

theorem exec_railE (hp0 : s.p0.toInt = n) (hn : 2 ≤ n) :
    exec .railE s = .next ((Effect.cells .tout (railEnc s.mem.tin n)).after s) := by
  have hsext : sext32 s.p0 = n := hp0
  change execRailE s = _
  rw [execRailE, hsext, if_neg (by omega), Int.toNat_natCast]
  rfl

theorem exec_railD (hp0 : s.p0.toInt = n) (hn : 2 ≤ n) :
    exec .railD s = .next ((Effect.cells .tout (railDec s.mem.tin n)).after s) := by
  have hsext : sext32 s.p0 = n := hp0
  change execRailD s = _
  rw [execRailD, hsext, if_neg (by omega), Int.toNat_natCast]
  rfl

/-- RAIL.D gives back what RAIL.E made under the same P0 (R287). -/
theorem exec_railD_undoes {text : List Cell} (hp0 : s.p0.toInt = n) (hn : 2 ≤ n)
    (htin : s.mem.tin = railEnc text n) : exec .railD s = .next ((Effect.cells .tout text).after s) := by
  rw [exec_railD hp0 hn, htin, railDec_railEnc hn]

/-- RAIL.E gives back what RAIL.D made under the same P0 (R287). -/
theorem exec_railE_undoes {text : List Cell} (hp0 : s.p0.toInt = n) (hn : 2 ≤ n)
    (htin : s.mem.tin = railDec text n) : exec .railE s = .next ((Effect.cells .tout text).after s) := by
  rw [exec_railE hp0 hn, htin, railEnc_railDec hn]

end

/-- Settles O35: the positions are those of the order of reading, in which each stands at its index. -/
theorem railReadsRailByRail : Obligations.RailReadsRailByRail := by
  refine ⟨rfl, rfl, fun s => ⟨fun h => ⟨exec_railE_copy h, exec_railD_copy h⟩, fun n rail hp0 hn hrail => ?_⟩⟩
  obtain rfl : rail = railOf n := funext hrail
  refine ⟨railOrder n s.mem.tin.length, railOrder_perm hn _, railOrder_pairwise n _, ?enc,
    railDec s.mem.tin n, exec_railD hp0 hn, railDec_length _ _, fun k hk => railDec_getElem?_railOrder hn hk⟩
  case enc =>
    have hexec := exec_railE hp0 hn
    rw [railEnc_eq, after_cells_tout] at hexec
    exact hexec

/-- Settles O36: RAIL leaves P0, so both commands copy, or the second reads in the order of the first. -/
theorem railDirectionsAreInverse : Obligations.RailDirectionsAreInverse := by
  intro s
  by_cases hcopy : s.p0.toInt < 2
  case pos =>
    exact ⟨runCommands_textRoundTrip (exec_railE_copy hcopy) (exec_railD_copy hcopy),
      runCommands_textRoundTrip (exec_railD_copy hcopy) (exec_railE_copy hcopy)⟩
  case neg =>
    obtain ⟨n, hp0⟩ := Int.eq_ofNat_of_zero_le (show 0 ≤ s.p0.toInt by omega)
    have hn : 2 ≤ n := by omega
    exact ⟨runCommands_textRoundTrip (exec_railE hp0 hn) (exec_railD_undoes hp0 hn rfl),
      runCommands_textRoundTrip (exec_railD hp0 hn) (exec_railE_undoes hp0 hn rfl)⟩

end Sys2Proof.Machine
end

section
/-! PROOFS. MULT (spec/45_classical_2.md R290 to R294): letters multiplied, and multiplied back by the key's inverse. -/

namespace Sys2Proof.Machine

-- Elaborating many proofs at once exhausts the memory limit of the check, as in the model's own tests.
set_option Elab.async false

/-! One cell (R291) -/

section
variable {i : Nat} (k : Nat)

theorem mulc_upc (hi : i < 26) : mulc (upc i) k = upc (i * k % 26) := by
  rw [mulc, if_pos (isup_upc hi), idx_upc hi]

theorem mulc_loc (hi : i < 26) : mulc (loc i) k = loc (i * k % 26) := by
  rw [mulc, if_neg (by simp [isup_loc hi]), if_pos (islo_loc hi), idx_loc hi]

theorem mulc_of_not_islet {c : Cell} (hc : islet c = false) : mulc c k = c := by
  obtain ⟨hup, hlo⟩ : isup c = false ∧ islo c = false := by simpa [islet] using hc
  simp [mulc, hup, hlo]

/-- Multiplication is the letter map that multiplies by k. -/
theorem mulc_eq_letterMap (c : Cell) : mulc c k = letterMap (fun i => i * k) c := by
  obtain ⟨i, hi, rfl⟩ | ⟨i, hi, rfl⟩ | hno := cell_cases c
  · rw [mulc_upc k hi, letterMap_upc _ hi]
  · rw [mulc_loc k hi, letterMap_loc _ hi]
  · rw [mulc_of_not_islet k hno, letterMap_of_not_islet _ hno]

/-- An index multiplied by two factors that are inverse to each other comes back. -/
theorem mul_mul_mod_cancel {k l : Nat} (h : k * l % 26 = 1) (hi : i < 26) : i * k % 26 * l % 26 = i := by
  rw [Nat.mod_mul_mod, Nat.mul_assoc, Nat.mul_mod, h, Nat.mul_one, Nat.mod_mod, Nat.mod_eq_of_lt hi]

/-- Two factors that are inverse to each other give the cell back. -/
theorem mulc_mulc_cancel {k l : Nat} (h : k * l % 26 = 1) (c : Cell) : mulc (mulc c k) l = c := by
  have hmod : ∀ i, i * k % 26 < 26 := fun i => Nat.mod_lt _ (by decide)
  obtain ⟨i, hi, rfl⟩ | ⟨i, hi, rfl⟩ | hno := cell_cases c
  · rw [mulc_upc k hi, mulc_upc l (hmod i), mul_mul_mod_cancel h hi]
  · rw [mulc_loc k hi, mulc_loc l (hmod i), mul_mul_mod_cancel h hi]
  · rw [mulc_of_not_islet k hno, mulc_of_not_islet l hno]

end

/-- A whole text multiplied: the letter map, cell by cell. -/
theorem map_mulc (k : Nat) (text : List Cell) :
    (text.map fun c => mulc c k) = text.map (letterMap fun i => i * k) :=
  List.map_congr_left fun c _ => mulc_eq_letterMap k c

/-- Multiplying a whole text by a factor and by its inverse gives the text back. -/
theorem map_mulc_map_mulc_cancel {k l : Nat} (h : k * l % 26 = 1) (text : List Cell) :
    ((text.map fun c => mulc c k).map fun c => mulc c l) = text := by
  rw [List.map_map]
  exact List.map_id'' (fun c => mulc_mulc_cancel h c) text

/-! The commands (R292, R293) -/

variable {s : State} {n : Nat}

theorem exec_multE (s : State) :
    exec .multE s = .next ((Effect.cells .tout (s.mem.tin.map fun c => mulc c (param26 s.p0))).after s) := rfl

theorem exec_multD (h : inv26 (param26 s.p0) = some n) :
    exec .multD s = .next ((Effect.cells .tout (s.mem.tin.map fun c => mulc c n)).after s) := by
  change execMultD s = _
  rw [execMultD, h]
  rfl

theorem exec_multD_noinverse (h : inv26 (param26 s.p0) = none) : exec .multD s = .next (failedState .tout 7 s) := by
  change execMultD s = _
  rw [execMultD, h]
  exact (raise_next .tout .noinverse).2 rfl

/-- The reduced key has an inverse exactly where the signed register is coprime to 26 (R291). -/
theorem coprime_param26_iff (r : Word) : Nat.Coprime (param26 r) 26 ↔ Int.gcd r.toInt 26 = 1 :=
  coprime_floorMod26_iff _

theorem exists_inv26_param26 {r : Word} (h : Int.gcd r.toInt 26 = 1) : ∃ n, inv26 (param26 r) = some n :=
  (inv26_exists_iff _).2 ((coprime_param26_iff r).2 h)

/-- An inverse of the reduced key is one of the signed register (R291). -/
theorem toInt_mul_emod_eq_one {r : Word} (h : param26 r * n % 26 = 1) : r.toInt * n % 26 = 1 := by
  have hcast : (param26 r : Int) = r.toInt % 26 := floorMod26_cast _
  have hinv : (param26 r : Int) * n % 26 = 1 := by exact_mod_cast h
  rwa [hcast, Int.mul_emod, Int.emod_emod, ← Int.mul_emod] at hinv

/-- MULT.D gives back what MULT.E made under the same key (R294). -/
theorem exec_multD_undoes {text : List Cell} (h : inv26 (param26 s.p0) = some n)
    (htin : s.mem.tin = text.map fun c => mulc c (param26 s.p0)) :
    exec .multD s = .next ((Effect.cells .tout text).after s) := by
  obtain ⟨-, -, hinv⟩ := inv26_spec h
  rw [exec_multD h, htin, map_mulc_map_mulc_cancel hinv]

/-- MULT.E gives back what MULT.D made under the same key (R294). -/
theorem exec_multE_undoes {text : List Cell} (h : inv26 (param26 s.p0) = some n)
    (htin : s.mem.tin = text.map fun c => mulc c n) :
    exec .multE s = .next ((Effect.cells .tout text).after s) := by
  obtain ⟨-, -, hinv⟩ := inv26_spec h
  rw [exec_multE, htin, map_mulc_map_mulc_cancel (Nat.mul_comm n _ ▸ hinv)]

/-- Settles O37: multiplication is the letter map that multiplies, and the inverse is the one `inv26` finds. -/
theorem multMultipliesLetterIndices : Obligations.MultMultipliesLetterIndices := by
  refine ⟨rfl, rfl, fun s => ⟨?times, fun hgcd => ?back, fun hgcd => ?noinverse⟩⟩
  case times =>
    have hexec := exec_multE s
    rw [map_mulc, after_cells_tout] at hexec
    exact hexec
  case back =>
    obtain ⟨n, hn⟩ := exists_inv26_param26 hgcd
    obtain ⟨hlow, hhigh, hinv⟩ := inv26_spec hn
    have hexec := exec_multD hn
    rw [map_mulc, after_cells_tout] at hexec
    exact ⟨n, hlow, hhigh, toInt_mul_emod_eq_one hinv, hexec⟩
  case noinverse => exact exec_multD_noinverse (inv26_eq_none ((coprime_param26_iff s.p0).not.2 hgcd))

/-- Settles O38: MULT leaves P0, so the second command multiplies by the inverse of the first one's factor. -/
theorem multDirectionsAreInverse : Obligations.MultDirectionsAreInverse := by
  intro s hgcd
  obtain ⟨n, hn⟩ := exists_inv26_param26 hgcd
  exact ⟨runCommands_textRoundTrip (exec_multE s) (exec_multD_undoes hn rfl),
    runCommands_textRoundTrip (exec_multD hn) (exec_multE_undoes hn rfl)⟩

end Sys2Proof.Machine
end

section
/-! PROOFS. Envelopes and buffer moves (spec/46_envelope.md R312 to R316, R334, R335): both sizes of ENV_PACK and of
ENV_UNPACK are one function of the IV's length. -/

namespace Sys2Proof.Machine

-- Elaborating many proofs at once exhausts the memory limit of the check, as in the model's own tests.
set_option Elab.async false

variable {s t : State} {n : Nat}

/-! The failures (R313, R315) -/

theorem envPack_ivlen (hiv : s.mem.iv.length ≠ n) : envPack n s = .next (failedState .dout 2 s) := by
  rw [envPack, if_pos hiv]
  exact (raise_next .dout .ivlen).2 rfl

theorem envPack_cap (hiv : s.mem.iv.length = n) (hcap : s.cfg.bufCap < n + s.mem.din.length) :
    envPack n s = .next (failedState .dout 9 s) := by
  rw [envPack, if_neg (not_not.2 hiv), if_pos hcap]
  exact (raise_next .dout .cap).2 rfl

theorem envUnpack_envelope (h : s.mem.din.length < n) : envUnpack n s = .next (failedState .dout 4 s) := by
  rw [envUnpack, if_pos h]
  exact (raise_next .dout .envelope).2 rfl

/-! The split at the IV's length (R314) -/

/-- An IV and a text one after the other are split into the IV and the text. -/
theorem envUnpack_append {iv ct : List Byte} (hdin : s.mem.din = iv ++ ct) (hiv : iv.length = n) :
    envUnpack n s = .next ((Effect.unpacked iv ct).after s) := by
  have hlen : n ≤ s.mem.din.length := by rw [hdin, List.length_append]; omega
  rw [envUnpack_next hlen, hdin, List.take_left' hiv, List.drop_left' hiv]

/-! The round trips (R316) -/

/-- A command after another one and a MOVB. -/
theorem runCommands_movb {i j : Instr} {t' : State} (hi : exec i s = .next t)
    (hj : exec j ((Effect.bytes .din t.mem.dout).after t) = .next t') :
    runCommands [i, .movb, j] s = .next t' := by
  rw [runCommands_cons_of_next hi, runCommands_cons_of_next (exec_movb t)]
  exact runCommands_cons_of_next hj

variable {pack unpack : Instr} (hpack : ∀ s, exec pack s = envPack n s)
  (hunpack : ∀ s, exec unpack s = envUnpack n s)
include hpack hunpack

/-- Unpacking a packed envelope gives back the IV and the text (R316 (a)). -/
theorem runCommands_pack_unpack (hiv : s.mem.iv.length = n) (hcap : n + s.mem.din.length ≤ s.cfg.bufCap) :
    ∃ t, runCommands [pack, .movb, unpack] s = .next t ∧ t.status = 0 ∧
      t.mem.iv = s.mem.iv ∧ t.mem.dout = s.mem.din :=
  ⟨_, runCommands_movb ((hpack s).trans (envPack_next hiv hcap)) ((hunpack _).trans (envUnpack_append rfl hiv)),
    rfl, rfl, rfl⟩

/-- Packing an unpacked envelope gives back the envelope (R316 (b)). -/
theorem runCommands_unpack_pack (hlen : n ≤ s.mem.din.length) (hcap : s.mem.din.length ≤ s.cfg.bufCap) :
    ∃ t, runCommands [unpack, .movb, pack] s = .next t ∧ t.status = 0 ∧ t.mem.dout = s.mem.din := by
  have hiv : (s.mem.din.take n).length = n := List.length_take_of_le hlen
  have hfits : n + (s.mem.din.drop n).length ≤ s.cfg.bufCap := by rw [List.length_drop]; omega
  exact ⟨_, runCommands_movb ((hunpack s).trans (envUnpack_next hlen)) ((hpack _).trans (envPack_next hiv hfits)),
    rfl, List.take_append_drop n s.mem.din⟩

end Sys2Proof.Machine
end

section
/-! PROOFS. The statements about envelopes and buffer moves. -/

namespace Sys2Proof.Machine

-- Elaborating many proofs at once exhausts the memory limit of the check, as in the model's own tests.
set_option Elab.async false

/-- Settles O40: at either size the split is after the IV's bytes, and an envelope shorter than the IV fails. -/
theorem envelopeUnpackSplitsIv : Obligations.EnvelopeUnpackSplitsIv :=
  ⟨rfl, rfl, fun _ _ _ hdin =>
    ⟨envUnpack_append hdin, envUnpack_append hdin, envUnpack_envelope, envUnpack_envelope⟩⟩

/-- Settles O41: either size's two commands are packing and unpacking with an IV of one length. -/
theorem envelopeRoundTrips : Obligations.EnvelopeRoundTrips :=
  fun _ =>
    ⟨runCommands_pack_unpack (fun _ => rfl) (fun _ => rfl), runCommands_pack_unpack (fun _ => rfl) (fun _ => rfl),
      runCommands_unpack_pack (fun _ => rfl) (fun _ => rfl), runCommands_unpack_pack (fun _ => rfl) (fun _ => rfl)⟩

/-- Settles O39: one rule for the result and one for each failure, at either size. -/
theorem envelopePackPrependsIv : Obligations.EnvelopePackPrependsIv :=
  ⟨rfl, rfl, fun _ =>
    ⟨envPack_next, envPack_next, envPack_ivlen, envPack_ivlen, envPack_cap, envPack_cap⟩⟩

/-- Settles O45: both moves always succeed, with the source's content in the destination. -/
theorem movesCopyWholeBuffers : Obligations.MovesCopyWholeBuffers :=
  ⟨rfl, rfl, fun s => ⟨exec_movb s, exec_movt s⟩⟩

end Sys2Proof.Machine
end

section
/-! SUPPORT. Base64 texts as numbers (spec/46_envelope.md R320, R321): a text spells bytes when the 6-bit values of its
data characters, as one big-endian number without the bits that padding leaves unused, are the bytes. Decoding reads
exactly such texts, and encoding writes the one whose unused bits are 0. -/

namespace Sys2Proof.Machine

-- Elaborating many proofs at once exhausts the memory limit of the check, as in the model's own tests.
set_option Elab.async false

/-! Big-endian numbers: bytes, and 6-bit values -/

/-- 6-bit values as one number, the first one most significant. -/
def sextetsValue (vals : List Nat) : Nat := vals.foldl (fun n v => n * 64 + v) 0

theorem be_eq_ofDigits (b : List Byte) : be b = Nat.ofDigits 256 (b.map BitVec.toNat).reverse := by
  induction b using List.reverseRecOn with
  | nil => rfl
  | append_singleton b x ih =>
    rw [be_append_singleton, ih, List.map_append, List.reverse_append]
    exact (Nat.add_comm _ _).trans (congrArg (x.toNat + ·) (Nat.mul_comm _ _))

theorem sextetsValue_eq_ofDigits (vals : List Nat) : sextetsValue vals = Nat.ofDigits 64 vals.reverse := by
  induction vals using List.reverseRecOn with
  | nil => rfl
  | append_singleton vals v ih =>
    rw [List.reverse_append, List.reverse_singleton, List.singleton_append, Nat.ofDigits_cons, ← ih]
    simp [sextetsValue, Nat.mul_comm, Nat.add_comm]

theorem be_append (a b : List Byte) : be (a ++ b) = be a * 256 ^ b.length + be b := by
  rw [be_eq_ofDigits, be_eq_ofDigits, be_eq_ofDigits, List.map_append, List.reverse_append, Nat.ofDigits_append,
    List.length_reverse, List.length_map, Nat.add_comm, Nat.mul_comm]

theorem sextetsValue_append (xs ys : List Nat) :
    sextetsValue (xs ++ ys) = sextetsValue xs * 64 ^ ys.length + sextetsValue ys := by
  rw [sextetsValue_eq_ofDigits, sextetsValue_eq_ofDigits, sextetsValue_eq_ofDigits, List.reverse_append,
    Nat.ofDigits_append, List.length_reverse, Nat.add_comm, Nat.mul_comm]

theorem sextetsValue_singleton (v : Nat) : sextetsValue [v] = v := by simp [sextetsValue]

/-- Bytes are fixed by their number and their value. -/
theorem eq_of_be_eq {a b : List Byte} (hlen : a.length = b.length) (h : be a = be b) : a = b := by
  rw [← unbe_be a, hlen, h, unbe_be]

/-- The value of the first bytes. -/
theorem be_take (b : List Byte) (n : Nat) : be (b.take n) = be b / 256 ^ (b.length - n) := by
  have hrest : be (b.drop n) < 256 ^ (b.length - n) := (be_lt _).trans_eq (by rw [List.length_drop])
  have hsplit : be b = be (b.take n) * 256 ^ (b.length - n) + be (b.drop n) := by
    rw [← List.length_drop, ← be_append, List.take_append_drop]
  rw [hsplit, Nat.mul_comm, Nat.mul_add_div (by positivity), Nat.div_eq_of_lt hrest, Nat.add_zero]

section
variable {vals vals' : List Nat} (h : ∀ v ∈ vals, v < 64)
include h

theorem sextetsValue_lt : sextetsValue vals < 64 ^ vals.length := by
  rw [sextetsValue_eq_ofDigits, ← List.length_reverse]
  exact Nat.ofDigits_lt_base_pow_length (by decide) fun v hv => h v (List.mem_reverse.1 hv)

/-- 6-bit values are fixed by their number and their value. -/
theorem eq_of_sextetsValue_eq (h' : ∀ v ∈ vals', v < 64) (hlen : vals.length = vals'.length)
    (hvalue : sextetsValue vals = sextetsValue vals') : vals = vals' := by
  rw [sextetsValue_eq_ofDigits, sextetsValue_eq_ofDigits] at hvalue
  refine List.reverse_injective (Nat.ofDigits_inj_of_len_eq (by decide) (by simpa using hlen) ?_ ?_ hvalue)
  · exact fun v hv => h v (List.mem_reverse.1 hv)
  · exact fun v hv => h' v (List.mem_reverse.1 hv)

/-- One of the 6-bit values, read off the number. -/
theorem getD_eq_sextetsValue {i : Nat} (hi : i < vals.length) :
    vals.getD i 0 = sextetsValue vals / 64 ^ (vals.length - (i + 1)) % 64 := by
  have hrest : sextetsValue (vals.drop (i + 1)) < 64 ^ (vals.length - (i + 1)) :=
    (sextetsValue_lt fun v hv => h v (List.mem_of_mem_drop hv)).trans_eq (by rw [List.length_drop])
  have hdigit : vals.getD i 0 < 64 := h _ (List.mem_of_getElem? (getElem?_eq_some_getD 0 hi))
  have htake : vals.take (i + 1) = vals.take i ++ [vals.getD i 0] := by
    rw [List.take_add_one, getElem?_eq_some_getD 0 hi, Option.toList_some]
  calc vals.getD i 0
    _ = sextetsValue (vals.take (i + 1)) % 64 := by
      rw [htake, sextetsValue_append, sextetsValue_singleton, List.length_singleton, pow_one]; omega
    _ = sextetsValue vals / 64 ^ (vals.length - (i + 1)) % 64 := by
      conv_rhs => rw [← List.take_append_drop (i + 1) vals, sextetsValue_append, List.take_append_drop, Nat.mul_comm,
        List.length_drop, Nat.mul_add_div (by positivity), Nat.div_eq_of_lt hrest, Nat.add_zero]

end

/-! Texts -/

/-- The characters of 6-bit values, and then padding (R321). -/
def b64Text (vals : List Nat) (pads : Nat) : List Byte := vals.map b64Char ++ List.replicate pads b64Pad

/-- The text of `vals` and `pads` spells b, whatever the bits are that its padding leaves unused (R321): at most two
pads, each of which stands for 2 of the data characters' bits. -/
structure Spells (vals : List Nat) (pads : Nat) (b : List Byte) : Prop where
  lt : ∀ v ∈ vals, v < 64
  pads_le : pads ≤ 2
  bits : 6 * vals.length = 8 * b.length + 2 * pads
  value : sextetsValue vals / 4 ^ pads = be b

theorem b64Text_length (vals : List Nat) (pads : Nat) : (b64Text vals pads).length = vals.length + pads := by
  simp [b64Text]

theorem b64Text_append (xs ys : List Nat) (pads : Nat) :
    b64Text (xs ++ ys) pads = xs.map b64Char ++ b64Text ys pads := by
  simp [b64Text]

/-- What a 6-bit value in front of those that spell b is multiplied by: a place for each byte and each pad. -/
theorem Spells.pow_length {vals : List Nat} {pads : Nat} {b : List Byte} (h : Spells vals pads b) :
    64 ^ vals.length = 4 ^ pads * 256 ^ b.length := by
  have hbits := h.bits
  rw [show (64 : Nat) = 2 ^ 6 from rfl, show (4 : Nat) = 2 ^ 2 from rfl, show (256 : Nat) = 2 ^ 8 from rfl,
    ← pow_mul, ← pow_mul, ← pow_mul, ← pow_add, hbits, Nat.add_comm]

/-- A text spells one byte sequence. -/
theorem Spells.unique {vals : List Nat} {pads : Nat} {b b' : List Byte} (h : Spells vals pads b)
    (h' : Spells vals pads b') : b = b' := by
  have hbits := h.bits
  have hbits' := h'.bits
  exact eq_of_be_eq (by omega) (h.value.symm.trans h'.value)

/-- Whole groups in front: four 6-bit values for three bytes. -/
theorem Spells.append {xs ys : List Nat} {pads : Nat} {a b : List Byte} (ha : Spells xs 0 a) (hb : Spells ys pads b) :
    Spells (xs ++ ys) pads (a ++ b) where
  lt v hv := (List.mem_append.1 hv).elim (ha.lt v) (hb.lt v)
  pads_le := hb.pads_le
  bits := by
    have hbits := ha.bits
    have hbits' := hb.bits
    rw [List.length_append, List.length_append]
    omega
  value := by
    have hvalue : sextetsValue xs = be a := by simpa using ha.value
    rw [sextetsValue_append, be_append, hvalue, hb.pow_length, Nat.mul_left_comm, Nat.mul_add_div (by positivity),
      hb.value]

end Sys2Proof.Machine
end

section
/-! SUPPORT. Base64 decoding (spec/46_envelope.md R321): it succeeds exactly on the texts that spell bytes, with the
bytes they spell. -/

namespace Sys2Proof.Machine

-- Elaborating many proofs at once exhausts the memory limit of the check, as in the model's own tests.
set_option Elab.async false

/-! Characters (R320) -/

/-- A character with a value is the alphabet's character of that value (R320). -/
theorem eq_b64Char_of_b64Value {c : Byte} {v : Nat} (h : b64Value c = some v) : v < 64 ∧ c = b64Char v := by
  have hall : ∀ c : Byte, ∀ v ∈ b64Value c, v < 64 ∧ c = b64Char v := by decide
  exact hall c v h

theorem b64Char_ne_pad {v : Nat} (hv : v < 64) : b64Char v ≠ b64Pad := by
  have hall : ∀ v < 64, b64Char v ≠ b64Pad := by decide
  exact hall v hv

/-- Alphabet characters give their 6-bit values as one number. -/
theorem b64Values_map_b64Char {vals : List Nat} (h : ∀ v ∈ vals, v < 64) :
    b64Values (vals.map b64Char) 0 = some (sextetsValue vals) := by
  have hfrom : ∀ acc, b64Values (vals.map b64Char) acc = some (vals.foldl (fun n v => n * 64 + v) acc) := by
    induction vals with
    | nil => exact fun _ => rfl
    | cons v vals ih =>
      intro acc
      rw [List.map_cons, b64Values, b64Value_b64Char (h v List.mem_cons_self)]
      exact ih (fun w hw => h w (List.mem_cons_of_mem v hw)) (acc * 64 + v)
  exact hfrom 0

/-- Only alphabet characters have values. -/
theorem exists_map_b64Char_of_b64Values {cs : List Byte} {acc n : Nat} (h : b64Values cs acc = some n) :
    ∃ vals : List Nat, (∀ v ∈ vals, v < 64) ∧ cs = vals.map b64Char := by
  induction cs generalizing acc with
  | nil => exact ⟨[], by simp, rfl⟩
  | cons c cs ih =>
    rw [b64Values] at h
    split at h
    · cases h
    · next v hv =>
      obtain ⟨hlt, rfl⟩ := eq_b64Char_of_b64Value hv
      obtain ⟨vals, hvals, rfl⟩ := ih h
      exact ⟨v :: vals, List.forall_mem_cons.2 ⟨hlt, hvals⟩, rfl⟩

/-! One group -/

variable {vals : List Nat} {pads : Nat} {t : List Byte}

/-- A group of data characters and padding is decoded to the bytes it spells. -/
theorem b64Group_b64Text (h : ∀ v ∈ vals, v < 64) (hpads : pads ≤ 2) (hlen : vals.length + pads = 4) :
    ∃ g, b64Group (b64Text vals pads) pads = some g ∧ Spells vals pads g := by
  let g := (unbe 3 (sextetsValue vals <<< (6 * pads))).take (3 - pads)
  have htake : (b64Text vals pads).take (4 - pads) = vals.map b64Char := List.take_left' (by simp; omega)
  have hlt : sextetsValue vals * 64 ^ pads < 256 ^ 3 := by
    calc sextetsValue vals * 64 ^ pads
      _ < 64 ^ vals.length * 64 ^ pads := Nat.mul_lt_mul_of_pos_right (sextetsValue_lt h) (by positivity)
      _ = 256 ^ 3 := by rw [← pow_add, hlen]; norm_num
  have hbytes : be g = sextetsValue vals / 4 ^ pads := by
    rw [be_take, be_unbe, unbe_length, Nat.shiftLeft_eq, pow_mul, show 2 ^ 6 = 64 by rfl,
      Nat.mod_eq_of_lt hlt, show 3 - (3 - pads) = pads by omega, show 256 = 4 * 64 by rfl, mul_pow,
      Nat.mul_div_mul_right _ _ (by positivity)]
  refine ⟨g, ?_, h, hpads, ?_, hbytes.symm⟩
  · rw [b64Group, htake, b64Values_map_b64Char h]
  · simp only [g, List.length_take, unbe_length]; omega

/-- A group that is decoded is data characters and as much padding as was looked for. -/
theorem exists_eq_b64Text_of_b64Group {q g : List Byte} (h : b64Group q pads = some g) (hpads : pads ≤ 2)
    (hlen : q.length = 4) (hdrop : q.drop (4 - pads) = List.replicate pads b64Pad) :
    ∃ vals, q = b64Text vals pads ∧ Spells vals pads g := by
  have hq := List.take_append_drop (4 - pads) q
  cases hv : b64Values (q.take (4 - pads)) 0 with
  | none => rw [b64Group, hv] at h; cases h
  | some n =>
    obtain ⟨vals, hvals, htake⟩ := exists_map_b64Char_of_b64Values hv
    have hcount : vals.length + pads = 4 := by
      have hmap := congrArg List.length htake
      rw [List.length_take, List.length_map] at hmap
      omega
    obtain rfl : q = b64Text vals pads := by rw [b64Text, ← htake, ← hdrop, hq]
    obtain ⟨g', hg', hspells⟩ := b64Group_b64Text hvals hpads hcount
    obtain rfl : g' = g := Option.some.inj (hg'.symm.trans h)
    exact ⟨vals, rfl, hspells⟩

/-! The padding of the last group -/

theorem b64PadCount_le (q2 q3 : Byte) : b64PadCount q2 q3 ≤ 2 := by
  unfold b64PadCount; split_ifs <;> decide

/-- What is counted as padding is padding. -/
theorem drop_b64PadCount (q0 q1 q2 q3 : Byte) :
    [q0, q1, q2, q3].drop (4 - b64PadCount q2 q3) = List.replicate (b64PadCount q2 q3) b64Pad := by
  by_cases h3 : q3 = b64Pad
  · by_cases h2 : q2 = b64Pad
    · simp [b64PadCount, h2, h3, List.replicate]
    · simp [b64PadCount, h2, h3]
  · simp [b64PadCount, h3]

/-- The padding of a last group is counted right. -/
theorem b64Dec_lastGroup (h : ∀ v ∈ vals, v < 64) (hpads : pads ≤ 2) (hlen : vals.length + pads = 4) :
    b64Dec (b64Text vals pads) = b64Group (b64Text vals pads) pads := by
  have hne : ∀ v ∈ vals, b64Char v ≠ b64Pad := fun v hv => b64Char_ne_pad (h v hv)
  match pads, hpads with
  | 0, _ =>
    match vals, hlen with
    | [_, _, _, v3], _ => simp [b64Text, b64Dec, b64PadCount, hne v3]
  | 1, _ =>
    match vals, hlen with
    | [_, _, v2], _ => simp [b64Text, b64Dec, b64PadCount, hne v2]
  | 2, _ =>
    match vals, hlen with
    | [_, _], _ => simp [b64Text, b64Dec, b64PadCount, List.replicate]

/-! All groups -/

/-- A group without padding in front of others. -/
theorem b64Dec_group_append {q g out : List Byte} (hlen : q.length = 4) (ht : t ≠ []) (hg : b64Group q 0 = some g)
    (hout : b64Dec t = some out) : b64Dec (q ++ t) = some (g ++ out) := by
  match q, hlen with
  | [q0, q1, q2, q3], _ =>
    simp only [List.cons_append, List.nil_append]
    rw [b64Dec, hg, hout]
    exact ht

/-- A well-formed text is decoded to the bytes it spells, group by group. -/
theorem exists_b64Dec_b64Text {k : Nat} (h : ∀ v ∈ vals, v < 64) (hpads : pads ≤ 2)
    (hlen : vals.length + pads = 4 * k) : ∃ b, b64Dec (b64Text vals pads) = some b ∧ Spells vals pads b := by
  induction k generalizing vals with
  | zero =>
    obtain rfl : vals = [] := List.eq_nil_of_length_eq_zero (by omega)
    obtain rfl : pads = 0 := by omega
    exact ⟨[], rfl, h, hpads, rfl, rfl⟩
  | succ k ih =>
    obtain rfl | hk := Nat.eq_zero_or_pos k
    · obtain ⟨g, hg, hspells⟩ := b64Group_b64Text h hpads hlen
      exact ⟨g, (b64Dec_lastGroup h hpads hlen).trans hg, hspells⟩
    · have hfirst : (vals.take 4).length = 4 := List.length_take_of_le (by omega)
      have hlater : (vals.drop 4).length + pads = 4 * k := by rw [List.length_drop]; omega
      obtain ⟨g, hg, hspells⟩ :=
        b64Group_b64Text (pads := 0) (fun v hv => h v (List.mem_of_mem_take hv)) (by decide) hfirst
      obtain ⟨b, hb, hspells'⟩ := ih (fun v hv => h v (List.mem_of_mem_drop hv)) hlater
      have hne : b64Text (vals.drop 4) pads ≠ [] := by
        rw [← List.length_pos_iff, b64Text_length]; omega
      have hdec := b64Dec_group_append (by rw [b64Text_length, hfirst]) hne hg hb
      have hsplit : vals = vals.take 4 ++ vals.drop 4 := (List.take_append_drop 4 vals).symm
      refine ⟨g ++ b, ?_, hsplit ▸ hspells.append hspells'⟩
      rw [hsplit, b64Text_append]
      simpa [b64Text] using hdec

theorem b64Dec_b64Text {b : List Byte} (h : Spells vals pads b) : b64Dec (b64Text vals pads) = some b := by
  have hbits := h.bits
  have hpads := h.pads_le
  obtain ⟨b', hb', hspells⟩ :=
    exists_b64Dec_b64Text (k := (vals.length + pads) / 4) h.lt h.pads_le (by omega)
  rw [hb', hspells.unique h]

/-- Only a text that spells bytes is decoded (R321). -/
theorem exists_spells_of_b64Dec {b : List Byte} (h : b64Dec t = some b) :
    ∃ vals pads, t = b64Text vals pads ∧ Spells vals pads b := by
  fun_induction b64Dec t generalizing b with
  | case1 =>
    obtain rfl := Option.some.inj h
    exact ⟨[], 0, rfl, by simp, by decide, rfl, rfl⟩
  | case2 q0 q1 q2 q3 =>
    obtain ⟨vals, htext, hspells⟩ :=
      exists_eq_b64Text_of_b64Group h (b64PadCount_le q2 q3) rfl (drop_b64PadCount q0 q1 q2 q3)
    exact ⟨vals, _, htext, hspells⟩
  | case3 q0 q1 q2 q3 rest hne g out hout hg ih =>
    obtain ⟨xs, hxs, hspells⟩ := exists_eq_b64Text_of_b64Group hg (by decide) rfl rfl
    obtain ⟨ys, pads, rfl, hspells'⟩ := ih hout
    obtain rfl := Option.some.inj h
    refine ⟨xs ++ ys, pads, ?_, hspells.append hspells'⟩
    rw [b64Text_append, show xs.map b64Char = [q0, q1, q2, q3] by simpa [b64Text] using hxs.symm]
    rfl
  | case4 => cases h
  | case5 => cases h

/-- Decoding succeeds exactly on the texts that spell bytes, with the bytes they spell (R321). -/
theorem b64Dec_eq_some_iff {b : List Byte} :
    b64Dec t = some b ↔ ∃ vals pads, t = b64Text vals pads ∧ Spells vals pads b :=
  ⟨exists_spells_of_b64Dec, fun ⟨_, _, htext, hspells⟩ => htext ▸ b64Dec_b64Text hspells⟩

end Sys2Proof.Machine
end

section
/-! SUPPORT. Base64 encoding (spec/46_envelope.md R321): it writes the text that spells the bytes and has no unused bit
set. -/

namespace Sys2Proof.Machine

-- Elaborating many proofs at once exhausts the memory limit of the check, as in the model's own tests.
set_option Elab.async false

theorem shiftLeft_shiftRight_of_le {m n : Nat} (h : n ≤ m) (x : Nat) : x <<< m >>> n = x <<< (m - n) := by
  conv_lhs => rw [← Nat.sub_add_cancel h, Nat.shiftLeft_add, Nat.shiftLeft_shiftRight]

/-- The first k 6-bit values of a 24-bit group, from the top. -/
def groupSextets (v k : Nat) : List Nat := (List.range k).map fun j => v >>> (18 - 6 * j) % 64

theorem map_b64Char_groupSextets (v k : Nat) :
    (groupSextets v k).map b64Char = (List.range k).map (b64GroupChar v) := by
  rw [groupSextets, List.map_map]
  rfl

theorem groupSextets_lt (v k : Nat) : ∀ x ∈ groupSextets v k, x < 64 := by
  intro x hx
  obtain ⟨j, -, rfl⟩ := List.mem_map.1 hx
  exact Nat.mod_lt _ (by decide)

theorem sextetsValue_groupSextets {v k : Nat} (hv : v < 2 ^ 24) (hk : k ≤ 4) :
    sextetsValue (groupSextets v k) = v >>> (24 - 6 * k) := by
  have hvalues := b64Values_map_b64Char (groupSextets_lt v k)
  rw [map_b64Char_groupSextets, b64Values_groupChars hv hk] at hvalues
  exact (Option.some.inj hvalues).symm

/-- The text of `vals` and `pads` spells b and has no unused bit set (R321). -/
structure Encodes (vals : List Nat) (pads : Nat) (b : List Byte) : Prop extends Spells vals pads b where
  unused : 4 ^ pads ∣ sextetsValue vals

variable {vals vals' : List Nat} {pads pads' : Nat} {a b : List Byte}

theorem Encodes.value_eq (h : Encodes vals pads b) : sextetsValue vals = be b * 4 ^ pads := by
  rw [← h.value, Nat.div_mul_cancel h.unused]

/-- Two such texts of one byte sequence are one text. -/
theorem Encodes.unique (h : Encodes vals pads b) (h' : Encodes vals' pads' b) : vals = vals' ∧ pads = pads' := by
  have hbits := h.bits
  have hbits' := h'.bits
  have hle := h.pads_le
  have hle' := h'.pads_le
  obtain rfl : pads = pads' := by omega
  exact ⟨eq_of_sextetsValue_eq h.lt h'.lt (by omega) (h.value_eq.trans h'.value_eq.symm), rfl⟩

/-- Whole groups in front. -/
theorem Encodes.append {xs ys : List Nat} (ha : Encodes xs 0 a) (hb : Encodes ys pads b) :
    Encodes (xs ++ ys) pads (a ++ b) where
  toSpells := ha.toSpells.append hb.toSpells
  unused := by
    rw [sextetsValue_append, hb.pow_length]
    exact dvd_add (Dvd.dvd.mul_left (dvd_mul_right _ _) _) hb.unused

/-- A group's bytes, with 0 for the missing ones, give its text. -/
theorem encodes_groupSextets (hpads : pads ≤ 2) (hlen : a.length + pads = 3) :
    Encodes (groupSextets (be a <<< (8 * pads)) (4 - pads)) pads a := by
  have hv : be a <<< (8 * pads) < 2 ^ 24 := by
    calc be a <<< (8 * pads)
      _ = be a * 256 ^ pads := by rw [Nat.shiftLeft_eq, pow_mul, show 2 ^ 8 = 256 by rfl]
      _ < 256 ^ a.length * 256 ^ pads := Nat.mul_lt_mul_of_pos_right (be_lt a) (by positivity)
      _ = 2 ^ 24 := by rw [← pow_add, hlen]; norm_num
  have hvalue : sextetsValue (groupSextets (be a <<< (8 * pads)) (4 - pads)) = be a * 4 ^ pads := by
    rw [sextetsValue_groupSextets hv (by omega), show 24 - 6 * (4 - pads) = 6 * pads by omega,
      shiftLeft_shiftRight_of_le (by omega), show 8 * pads - 6 * pads = 2 * pads by omega,
      Nat.shiftLeft_eq, pow_mul, show 2 ^ 2 = 4 by rfl]
  refine ⟨⟨groupSextets_lt _ _, hpads, ?_, ?_⟩, ?_⟩
  · rw [groupSextets, List.length_map, List.length_range]; omega
  · rw [hvalue, Nat.mul_div_cancel _ (by positivity)]
  · exact hvalue ▸ dvd_mul_left _ _

/-- Encoding writes the text that spells the bytes and has no unused bit set, group by group (R321). -/
theorem exists_encodes_b64Enc (b : List Byte) :
    ∃ vals pads, b64Enc b = b64Text vals pads ∧ Encodes vals pads b := by
  fun_induction b64Enc b with
  | case1 => exact ⟨[], 0, rfl, ⟨by simp, by decide, rfl, rfl⟩, by simp⟩
  | case2 a v => exact ⟨_, 2, rfl, encodes_groupSextets (a := [a]) le_rfl rfl⟩
  | case3 a b v => exact ⟨_, 1, rfl, encodes_groupSextets (a := [a, b]) (by decide) rfl⟩
  | case4 a b c rest v ih =>
    obtain ⟨vals, pads, htext, hrest⟩ := ih
    refine ⟨_, pads, ?_, (encodes_groupSextets (a := [a, b, c]) (pads := 0) (by decide) rfl).append hrest⟩
    rw [b64Text_append, map_b64Char_groupSextets, ← htext]
    rfl

theorem b64Enc_eq_b64Text (h : Encodes vals pads b) : b64Enc b = b64Text vals pads := by
  obtain ⟨vals', pads', htext, h'⟩ := exists_encodes_b64Enc b
  obtain ⟨rfl, rfl⟩ := h.unique h'
  exact htext

/-! The characters one by one -/

theorem b64Text_getD_of_lt {i : Nat} (hi : i < vals.length) :
    (b64Text vals pads).getD i 0 = b64Char (vals.getD i 0) := by
  simp [b64Text, List.getElem?_append_left, hi]

theorem b64Text_getD_of_le {i : Nat} (hle : vals.length ≤ i) (hi : i < vals.length + pads) :
    (b64Text vals pads).getD i 0 = b64Pad := by
  have hpad : i - vals.length < pads := by omega
  simp [b64Text, List.getElem?_append_right, hle, hpad]

/-- A 6-bit value of the text is 6 bits of the bytes, with zero bits behind the last of them. -/
theorem Encodes.getD_eq {i : Nat} (h : Encodes vals pads b) (hi : i < vals.length) :
    vals.getD i 0 =
      if 6 * i + 6 ≤ 8 * b.length then be b >>> (8 * b.length - (6 * i + 6)) % 64
      else be b <<< (6 * i + 6 - 8 * b.length) % 64 := by
  have hbits := h.bits
  have hweight : 64 ^ (vals.length - (i + 1)) = 2 ^ (8 * b.length + 2 * pads - (6 * i + 6)) := by
    rw [show 64 = 2 ^ 6 by rfl, ← pow_mul]
    congr 1
    omega
  rw [getD_eq_sextetsValue h.lt hi, hweight, h.value_eq, show 4 = 2 ^ 2 by rfl, ← pow_mul, ← Nat.shiftLeft_eq,
    ← Nat.shiftRight_eq_div_pow]
  split_ifs with hinside
  · rw [show 8 * b.length + 2 * pads - (6 * i + 6) = 2 * pads + (8 * b.length - (6 * i + 6)) by omega,
      Nat.shiftRight_add, Nat.shiftLeft_shiftRight]
  · rw [shiftLeft_shiftRight_of_le (by omega)]
    congr 2
    omega

end Sys2Proof.Machine
end

section
/-! PROOFS. Base64 (spec/46_envelope.md R320 to R324): both commands through the texts that spell bytes. -/

namespace Sys2Proof.Machine

-- Elaborating many proofs at once exhausts the memory limit of the check, as in the model's own tests.
set_option Elab.async false

variable {s : State} {vals : List Nat} {pads : Nat}

/-! The failures (R322, R323) -/

theorem exec_b64E_cap (h : s.cfg.bufCap < 4 * ((s.mem.din.length + 2) / 3)) :
    exec .b64E s = .next (failedState .dout 9 s) := by
  change execB64E s = _
  rw [execB64E, if_pos h]
  exact (raise_next .dout .cap).2 rfl

theorem exec_b64D_b64 (h : b64Dec s.mem.din = none) : exec .b64D s = .next (failedState .dout 3 s) := by
  change finishBytes .b64 (b64Dec s.mem.din) s = _
  rw [h]
  exact (raise_next .dout .b64).2 rfl

/-! Characters and well-formed texts -/

/-- Character i of the encoding of b (R321). -/
theorem b64Enc_getD {b : List Byte} {i : Nat} (hi : i < (b64Enc b).length) :
    (b64Enc b).getD i 0 =
      if 6 * i + 6 ≤ 8 * b.length then b64Char (be b >>> (8 * b.length - (6 * i + 6)) % 64)
      else if 6 * i < 8 * b.length then b64Char (be b <<< (6 * i + 6 - 8 * b.length) % 64)
      else 0x3D := by
  obtain ⟨vals, pads, htext, hencodes⟩ := exists_encodes_b64Enc b
  have hbits := hencodes.bits
  have hpads := hencodes.pads_le
  rw [htext, b64Text_length] at hi
  rw [htext]
  by_cases hdata : 6 * i < 8 * b.length
  · have hlt : i < vals.length := by omega
    rw [b64Text_getD_of_lt hlt, hencodes.getD_eq hlt, if_pos hdata]
    exact apply_ite b64Char _ _ _
  · rw [b64Text_getD_of_le (by omega) hi, if_neg (by omega), if_neg hdata]
    rfl

/-- The numbers of R323 say that the text spells the bytes. -/
theorem spells_of_lengths {b : List Byte} (hlt : ∀ v ∈ vals, v < 64) (hpads : pads ≤ 2)
    (hgroups : (vals.length + pads) % 4 = 0) (hlen : b.length + pads = 3 * ((vals.length + pads) / 4))
    (hvalue : be b = sextetsValue vals / 4 ^ pads) : Spells vals pads b :=
  ⟨hlt, hpads, by omega, hvalue.symm⟩

/-- A decoded text has the form of R323. -/
theorem Spells.groups {b : List Byte} (h : Spells vals pads b) : (vals.length + pads) % 4 = 0 := by
  have hbits := h.bits
  omega

/-- A whole number of groups spells some bytes. -/
theorem exists_spells (hlt : ∀ v ∈ vals, v < 64) (hpads : pads ≤ 2) (hgroups : (vals.length + pads) % 4 = 0) :
    ∃ b, Spells vals pads b := by
  obtain ⟨b, -, hspells⟩ :=
    exists_b64Dec_b64Text (k := (vals.length + pads) / 4) hlt hpads (by omega)
  exact ⟨b, hspells⟩

/-- With the unused bits of its last data character cleared, a text that spells b is the encoding of b (R321). -/
theorem Spells.encodes_clear {ini : List Nat} {x : Nat} {b : List Byte} (h : Spells (ini ++ [x]) pads b) :
    Encodes (ini ++ [x / 4 ^ pads * 4 ^ pads]) pads b := by
  have hpads := h.pads_le
  have hini : 4 ^ pads ∣ sextetsValue ini * 64 := Dvd.dvd.mul_left (by interval_cases pads <;> decide) _
  have hx : x < 64 := h.lt x (by simp)
  have hvalue (y : Nat) : sextetsValue (ini ++ [y]) = sextetsValue ini * 64 + y := by
    rw [sextetsValue_append, sextetsValue_singleton, List.length_singleton, pow_one]
  refine ⟨⟨?_, hpads, by simpa using h.bits, ?_⟩, ?_⟩
  · intro v hv
    obtain hv | rfl := List.mem_append.1 hv |>.imp_right List.mem_singleton.1
    · exact h.lt v (List.mem_append_left _ hv)
    · exact (Nat.div_mul_le_self _ _).trans_lt hx
  · rw [← h.value, hvalue, hvalue, Nat.add_div_of_dvd_right hini, Nat.add_div_of_dvd_right hini,
      Nat.mul_div_cancel _ (by positivity)]
  · exact hvalue _ ▸ dvd_add hini (dvd_mul_left _ _)

/-! The obligations -/

/-- Settles O42: each character of the encoding is 6 bits of the bytes or padding. -/
theorem base64EncodesSextets : Obligations.Base64EncodesSextets :=
  ⟨rfl, fun s =>
    ⟨fun hcap => ⟨_, after_bytes_dout s _ ▸ exec_b64E hcap, b64Enc_length _, fun _ => b64Enc_getD⟩, exec_b64E_cap⟩⟩

/-- Settles O43: the texts of R323 are those that spell bytes, and these are the ones that are decoded. -/
theorem base64DecodesStrictly : Obligations.Base64DecodesStrictly := by
  refine ⟨rfl, ?upper, ?lower, ?digit, rfl, rfl, fun s => ⟨?formed, ?malformed⟩⟩
  case upper => exact fun v hv => if_pos hv
  case lower => exact fun v hlo hhi => by rw [b64Char, if_neg (by omega), if_pos hhi]
  case digit => exact fun v hlo hhi => by rw [b64Char, if_neg (by omega), if_neg (by omega), if_pos hhi]
  case formed =>
    intro vals pads out hlt hpads hdin hgroups hlen hvalue
    have hspells := spells_of_lengths hlt hpads hgroups hlen hvalue
    exact after_bytes_dout s out ▸ exec_b64D (b64Dec_eq_some_iff.2 ⟨vals, pads, hdin, hspells⟩)
  case malformed =>
    intro hno
    refine exec_b64D_b64 (Option.eq_none_iff_forall_ne_some.2 fun b hb => hno ?_)
    obtain ⟨vals, pads, hdin, hspells⟩ := b64Dec_eq_some_iff.1 hb
    exact ⟨vals, pads, hspells.lt, hspells.pads_le, hdin, hspells.groups⟩

/-- Settles O44: decoding undoes encoding, and the text encoded again is the one without unused bits. -/
theorem base64RoundTrips : Obligations.Base64RoundTrips := by
  refine ⟨?bytes, ?alphabet, ?text⟩
  case bytes =>
    exact fun s hcap => runCommands_roundTrip (exec_b64E hcap) (exec_b64D (b64Dec_b64Enc s.mem.din))
  case alphabet =>
    intro b
    obtain ⟨vals, pads, htext, hencodes⟩ := exists_encodes_b64Enc b
    refine ⟨vals.map b64Char, pads, hencodes.pads_le, htext, fun c hc => ?_⟩
    obtain ⟨v, hv, rfl⟩ := List.mem_map.1 hc
    exact ⟨v, hencodes.lt v hv, rfl⟩
  case text =>
    intro s ini x pads hini hx hpads hgroups hdin hcap
    have hlt : ∀ v ∈ ini ++ [x], v < 64 := List.forall_mem_append.2 ⟨hini, by simpa using hx⟩
    obtain ⟨b, hspells⟩ := exists_spells hlt hpads (by simpa using hgroups)
    have hdec : b64Dec s.mem.din = some b := b64Dec_eq_some_iff.2 ⟨_, pads, hdin, hspells⟩
    have henc : b64Enc b = b64Text (ini ++ [x / 4 ^ pads * 4 ^ pads]) pads := b64Enc_eq_b64Text hspells.encodes_clear
    have hlen : (b64Enc b).length = s.mem.din.length := by
      have htext : s.mem.din = b64Text (ini ++ [x]) pads := hdin
      simp only [henc, htext, b64Text_length, List.length_append, List.length_singleton]
    obtain ⟨t, hrun, hdout, hstatus⟩ :=
      runCommands_roundTrip (exec_b64D hdec) (exec_b64E ((b64Enc_length b).symm.trans_le (hlen.trans_le hcap)))
    exact ⟨t, hrun, hstatus, hdout.trans henc⟩

end Sys2Proof.Machine
end

section
/-! PROOFS. Failures (spec/60_exceptions.md R346 to R351): which code every command reports and what it leaves behind,
that no command hangs or is refused, and what an illegal word does. -/

namespace Sys2Proof.Machine

-- Elaborating many proofs at once exhausts the memory limit of the check, as in the model's own tests.
set_option Elab.async false

/-! What it means that a command reports a code, with one rule for each shape of a command's tests. -/

section
variable {s t u : State} {a : Answer} {d : Dest} {dest : Option Dest} {c : Code} {code code' : Word}
variable {p q : Prop} [Decidable p] [Decidable q]

/-- In the state s a command that would empty `dest` answers a, and this is the report of `code`: success if the code is
0, otherwise the failed state of R346; and a command without a destination has nothing to fail with. -/
structure Reports (s : State) (a : Answer) (dest : Option Dest) (code : Word) : Prop where
  ok : code = 0 → ∃ t, a = .next t ∧ t.status = 0
  failed : code ≠ 0 → ∃ d, dest = some d ∧ a = .next (failedState d code s)
  cannot_fail : dest = none → code = 0

namespace Reports

theorem success : Reports s (succeed t) dest 0 where
  ok _ := ⟨_, rfl, rfl⟩
  failed h := absurd rfl h
  cannot_fail _ := rfl

theorem failure (ha : a = .next (failedState d code s)) (hcode : code ≠ 0 := by decide) :
    Reports s a (some d) code where
  ok h := absurd h hcode
  failed _ := ⟨d, rfl, ha⟩
  cannot_fail h := nomatch h

/-- The report of a command whose first test is p. -/
theorem first_test (hfail : p → Reports s a dest code) (hpass : ¬p → Reports s a dest code') :
    Reports s a dest (if p then code else code') := by
  by_cases hp : p
  · rw [if_pos hp]; exact hfail hp
  · rw [if_neg hp]; exact hpass hp

/-- The command tests p and raises c when it holds; R348 asks for the test q, which is the same. -/
theorem guard_iff (hpq : p ↔ q) (hpass : ¬p → Reports s a (some d) code) (hc : c.word ≠ 0 := by decide) :
    Reports s (if p then raise d c s else a) (some d) (if q then c.word else code) := by
  refine first_test (fun hq => failure (guard_failed (hpq.2 hq)) hc) fun hq => ?_
  rw [if_neg (hpq.not.2 hq)]
  exact hpass (hpq.not.2 hq)

/-- The command tests p and raises c when it holds, as R348 asks. -/
theorem guard (hpass : ¬p → Reports s a (some d) code) (hc : c.word ≠ 0 := by decide) :
    Reports s (if p then raise d c s else a) (some d) (if p then c.word else code) :=
  guard_iff Iff.rfl hpass hc

/-- The last test is whether there is a result. -/
theorem finish {r : Option (List Byte)} [Decidable (r = none)] (hc : c.word ≠ 0 := by decide) :
    Reports s (finishBytes c r s) (some .dout) (if r = none then c.word else 0) := by
  obtain ⟨v, rfl, hfinish⟩ | ⟨rfl, hfinish⟩ := finishBytes_cases (s := s) c r
  · rw [if_neg (Option.some_ne_none v)]
    exact success
  · rw [if_pos rfl]
    exact failure hfinish hc

/-- Two ways to succeed. -/
theorem success_either : Reports s (if p then succeed t else succeed u) dest 0 := by
  split
  · exact success
  · exact success

end Reports

end

/-! The tests that the commands and R348 write differently, and the bodies that two commands share. -/

section
variable {s : State}

/-- BITPERM's test of the table is R348's test of PTAB (40_utilities.md R126). -/
theorem tableOutOfRange_iff_any :
    tableOutOfRange s.p0.toNat s.permTable = true ↔
      s.mem.ptab.any (fun e => decide (e.toNat < 1 ∨ s.p0.toNat < e.toNat)) = true := by
  simp only [tableOutOfRange_permTable_iff, List.any_eq_true, decide_eq_true_eq]

/-- POLY's key is unusable exactly when it is empty or holds a cell that is no letter (44_classical_1.md R236). -/
theorem polyKey_bad_iff {key : List Cell} :
    (key = [] ∨ key.any (fun c => !islet c) = true) ↔ (key = [] ∨ ∃ c ∈ key, islet c = false) := by
  simp only [List.any_eq_true, Bool.not_eq_true']

/-- POLY in either direction, by what it answers for a bad and for a usable key. -/
theorem poly_reports {a : Answer} {v : List Cell}
    (hbad : (s.mem.tkey = [] ∨ ∃ c ∈ s.mem.tkey, islet c = false) → a = .next (failedState .tout 8 s))
    (hgood : s.mem.tkey ≠ [] → (∀ c ∈ s.mem.tkey, islet c = true) → a = succeed (s.putCells .tout v)) :
    Reports s a (some .tout)
      (if s.mem.tkey = [] ∨ s.mem.tkey.any (fun c => !islet c) = true then 8 else 0) := by
  refine .first_test (fun h => .failure (hbad (polyKey_bad_iff.1 h))) fun h => ?_
  obtain ⟨hne, hletters⟩ := not_or.1 (polyKey_bad_iff.not.1 h)
  rw [hgood hne fun c hc => Bool.of_not_eq_false fun hno => hletters ⟨c, hc, hno⟩]
  exact .success

theorem blockCommandB_reports (dir : Dir) :
    Reports s (blockCommandB dir s) (some .dout)
      (if s.mem.key.length ≠ 8 then 1 else if s.mem.din.length ≠ 8 then 8 else 0) :=
  .guard (c := .keylen) fun _ => .guard (c := .contract) fun _ => .success

theorem envPack_reports (n : Nat) :
    Reports s (envPack n s) (some .dout)
      (if s.mem.iv.length ≠ n then 2 else if s.cfg.bufCap < n + s.mem.din.length then 9 else 0) :=
  .guard (c := .ivlen) fun _ => .guard (c := .cap) fun _ => .success

theorem envUnpack_reports (n : Nat) :
    Reports s (envUnpack n s) (some .dout) (if s.mem.din.length < n then 4 else 0) :=
  .guard (c := .envelope) fun _ => .success

theorem hillFinish_reports (m : Matrix26) :
    Reports s (hillFinish m s) (some .tout)
      (if s.cfg.bufCap < letterCount s.mem.tin + letterCount s.mem.tin % 2 then 9 else 0) :=
  .guard (c := .cap) fun _ => .success

/-- HILL.D tests for the inverse before the capacity (60_exceptions.md R348). -/
theorem exec_hillD_reports : Reports s (exec .hillD s) (failDest .hillD) (verdict .hillD s) := by
  refine .first_test (fun hdet => .failure (exec_hillD_noinverse ?_)) fun hdet => ?_
  · rw [hillInverse_eq, inv26_eq_none hdet, Option.map_none]
  · obtain ⟨n, hn⟩ := (inv26_exists_iff _).2 (not_not.1 hdet)
    rw [exec_hillD_eq (by rw [hillInverse_eq, hn, Option.map_some])]
    exact hillFinish_reports _

theorem exec_multD_reports : Reports s (exec .multD s) (failDest .multD) (verdict .multD s) := by
  refine .first_test (fun hkey => .failure (exec_multD_noinverse (inv26_eq_none hkey))) fun hkey => ?_
  obtain ⟨n, hn⟩ := (inv26_exists_iff _).2 (not_not.1 hkey)
  rw [exec_multD hn]
  exact .success

end

/-! All commands -/

variable {i : Instr} {s : State} {w : Word}

/-- Every command reports the first of its tests that fails, in the order of R348: one `guard` for each test. -/
theorem exec_reports (i : Instr) (s : State) : Reports s (exec i s) (failDest i) (verdict i s) := by
  cases i with
  | bitperm =>
    exact .guard (c := .contract) fun _ => .guard_iff (c := .contract) tableOutOfRange_iff_any fun _ => .success
  | aKeyexp => exact .guard (c := .keylen) fun _ => .success
  | aBlock => exact .guard (c := .keylen) fun _ => .guard (c := .contract) fun _ => .success
  | aCtr dir => exact .guard (c := .keylen) fun _ => .guard (c := .ivlen) fun _ => .success
  | bKeysched => exact .guard (c := .keylen) fun _ => .success
  | bBlockE => exact blockCommandB_reports .enc
  | bBlockD => exact blockCommandB_reports .dec
  | bCbcE =>
    refine .guard (c := .keylen) fun _ => .guard (c := .ivlen) fun _ => .guard_iff (c := .cap) ?_ fun _ => .success
    omega
  | bCbcD =>
    exact .guard (c := .keylen) fun _ => .guard (c := .ivlen) fun _ => .guard (c := .ctlen) fun _ =>
      .finish (c := .pad)
  | polyE => exact poly_reports exec_polyE_contract exec_polyE
  | polyD => exact poly_reports exec_polyD_contract exec_polyD
  | transpE =>
    exact .guard_iff (c := .contract) List.length_eq_zero_iff fun _ => .guard (c := .cap) fun _ => .success
  | transpD => exact .guard_iff (c := .contract) List.length_eq_zero_iff fun _ => .success
  | fractE => exact .guard (c := .cap) fun _ => .success
  | hillE => exact hillFinish_reports _
  | hillD => exact exec_hillD_reports
  | multD => exact exec_multD_reports
  | envPackA => exact envPack_reports 16
  | envPackB => exact envPack_reports 8
  | envUnpackA => exact envUnpack_reports 16
  | envUnpackB => exact envUnpack_reports 8
  | b64E => exact .guard (c := .cap) fun _ => .success
  | b64D => exact .finish (c := .b64)
  | railE | railD => exact .success_either
  | _ => exact .success

/-- Settles O55: every command reports its verdict. -/
theorem firstFailingTestIsReported : Obligations.FirstFailingTestIsReported := fun i s =>
  have h := exec_reports i s
  ⟨h.ok, h.failed, h.cannot_fail⟩

/-- The seventeen commands of R351 have no test that could fail. -/
theorem verdict_of_neverFails (h : neverFails i = true) (s : State) : verdict i s = 0 := by
  cases i with
  | gfmul | deriveKeyA | deriveKeyB | genIvA | genIvB | shiftE | shiftD | rot13 | fractD | pictoE | pictoD | railE
  | railD | multE | pass | movb | movt => rfl
  | _ => cases h

/-- Settles O54: a command's effect reports a code of R341, and a command without a test that could fail reports OK. -/
theorem everyCommandEndsWithOneCode : Obligations.EveryCommandEndsWithOneCode := by
  intro i s
  obtain ⟨e, -, he⟩ := exec_effect i s
  refine ⟨e.after s, he, ?_, fun hnever => ?_⟩
  · rw [Effect.after_status]
    exact e.code.word_toNat_le
  · obtain ⟨t, ht, hstatus⟩ := (exec_reports i s).ok (verdict_of_neverFails hnever s)
    rwa [Host.Outcome.next.inj (he.symm.trans ht)]

/-! Illegal words (R347) -/

/-- A word that is no command's word is one that decoding rejects (30_encoding.md R94, R95). -/
theorem ne_encode_iff : (∀ i, w ≠ encode i) ↔ ∃ e, decode w = .error e := by
  simp only [ne_eq, ← decode_ok_iff]
  cases decode w with
  | ok i => simp
  | error e => simp

/-- Settles O51: such a word is rejected by decoding, and so is the word 0. -/
theorem illegalWordOnlySetsStatus : Obligations.IllegalWordOnlySetsStatus := by
  refine ⟨fun s rest w hpending hw => ?_, ne_encode_iff.2 ⟨.unknownOpcode, by decide⟩⟩
  obtain ⟨e, he⟩ := ne_encode_iff.1 hw
  rw [step_of_pending hpending]
  exact (perform_writeCmd_illegal he).2 rfl

end Sys2Proof.Machine
end

section
/-! PROOFS. Reset (spec/70_reset_and_hazards.md R380, R381): the transaction's rule, what a register reads after it, and
that State.reset is its own Reset, so that what holds after every Reset holds of State.reset. -/

namespace Sys2Proof.Machine

-- Elaborating many proofs at once exhausts the memory limit of the check, as in the model's own tests.
set_option Elab.async false

variable (s : State)

/-- The transaction Reset is the reset of the engine, in every state (70_reset_and_hazards.md R380). -/
theorem perform_reset : perform .reset s = .next s.resetEngine := rfl

@[simp] theorem State.resetEngine_mem : s.resetEngine.mem = Memory.empty := rfl

/-- Resetting the state after reset changes nothing. -/
theorem State.resetEngine_reset : State.reset.resetEngine = State.reset := rfl

@[simp] theorem Memory.bytes_empty (b : ByteBuf) : Memory.empty.bytes b = [] := by cases b <;> rfl
@[simp] theorem Memory.cells_empty (b : CellBuf) : Memory.empty.cells b = [] := by cases b <;> rfl

/-- After Reset every number reads 0: a register that Reset clears, the length of an empty buffer, or no register at all
(10_state.md R32, R34). -/
@[simp] theorem State.readReg_resetEngine (n : Nat) : s.resetEngine.readReg n = 0 := by
  unfold State.readReg
  split <;> rfl

/-- Settles O58; its claim about State.reset is the claim about every state's Reset, at State.reset itself. -/
theorem resetClearsTheEngine : Obligations.ResetClearsTheEngine := by
  refine ⟨fun s => ?_, fun n => ?_, Memory.bytes_empty, Memory.cells_empty⟩
  · exact ⟨s.resetEngine, perform_reset s, s.readReg_resetEngine, by simp, by simp, perform_cfg (perform_reset s)⟩
  · rw [← State.resetEngine_reset, State.readReg_resetEngine]

end Sys2Proof.Machine
end
